-- ==== Sys2Proof/Word.lean ====
section
/-! DEFINITION. The word types of the block (00_scope section 6): a byte, bit 7 most significant, and the 32-bit
counter. -/

namespace Sys2Proof

/-- A byte, unsigned, 0..255. -/
abbrev Byte := BitVec 8

/-- The value of an observability counter: `CW` = 32 bits (R4, R21). -/
abbrev CounterWord := BitVec 32

end Sys2Proof
end

