-- ==== Sys2Proof/Config.lean ====
section
/-! DEFINITION. The parameters of the block (R4) and when a parameter record is well-formed (R5). The sizes R5 fixes to
one value are constants; every other parameter is a field of `Cfg`, which State carries and no step changes
(log entry 1). -/

namespace Sys2Proof

/-- Which controller an instance serves (R4). -/
inductive Role where
  | connectivity
  | display
  deriving DecidableEq, Repr

/-- Bytes of header: start, command, length, checksum (R4). -/
abbrev Config.headerSize : Nat := 4
/-- Largest payload length (R4). -/
abbrev Config.maxPayload : Nat := 128
/-- Largest frame, `HEADER_SIZE + MAX_PAYLOAD` (R4). -/
abbrev Config.maxFrame : Nat := 132
/-- Capacity of the receive accumulator and of the transmit buffer (R4). -/
abbrev Config.accCap : Nat := 132
/-- Largest city string (R4). -/
abbrev Config.cityMax : Nat := 31
/-- Size of the active-city register (R4). -/
abbrev Config.cityBuf : Nat := 32
/-- Size of the status record (R4). -/
abbrev Config.statusLen : Nat := 8
/-- Largest payload the `TX_REQ` port can carry (R3). -/
abbrev Config.txReqMax : Nat := 255

/-- The parameters that are not fixed to one value by R5. -/
structure Cfg where
  start : Byte
  cmdGetWeather : Byte
  cmdGetTime : Byte
  cmdSetTime : Byte
  cmdSetCity : Byte
  cmdGetForecast : Byte
  cmdSystemStatus : Byte
  cmdAck : Byte
  cmdNack : Byte
  cmdError : Byte
  role : Role
  stallLimit : Nat
  flagTrue : Byte
  cityReset : List Byte
  deriving DecidableEq, Repr

/-- The nine command ids, in the order of the source's vocabulary (R68). -/
def Cfg.ids (c : Cfg) : List Byte :=
  [c.cmdGetWeather, c.cmdGetTime, c.cmdSetTime, c.cmdSetCity, c.cmdGetForecast, c.cmdSystemStatus, c.cmdAck, c.cmdNack,
    c.cmdError]

/-- No byte occurs twice. -/
def distinctBytes : List Byte → Bool
  | [] => true
  | b :: bs => !bs.contains b && distinctBytes bs

/-- R5: the nine ids are pairwise different, `1 <= STALL_LIMIT <= 65535`, `CITY_RESET` has 32 bytes of which the last
is 0x00. The other clauses of R5 hold by construction: the sizes are constants and `Role` has two values. -/
def Cfg.wf (c : Cfg) : Bool :=
  distinctBytes c.ids && decide (1 ≤ c.stallLimit) && decide (c.stallLimit ≤ 65535) &&
    decide (c.cityReset.length = Config.cityBuf) && decide (c.cityReset.getLast? = some 0)

/-- The values of R4, with its defaults where a parameter is open. R4 gives `ROLE` and `STALL_LIMIT` no default:
DESIGN CHOICE, log entry 2, the convention of 95_test_vectors (`CONNECTIVITY`, 3). -/
def Cfg.default : Cfg where
  start := 0xAA
  cmdGetWeather := 0x01
  cmdGetTime := 0x02
  cmdSetTime := 0x03
  cmdSetCity := 0x04
  cmdGetForecast := 0x05
  cmdSystemStatus := 0x06
  cmdAck := 0x07
  cmdNack := 0x08
  cmdError := 0x09
  role := .connectivity
  stallLimit := 3
  flagTrue := 0x01
  cityReset := List.replicate 32 0

end Sys2Proof
end

