-- ==== Sys2Proof/Syntax.lean ====
section
/-! DEFINITION. The instructions of the block: one constructor per row of spec/opcode_table.json (30_encoding
section 7): eleven frame rows, seven event rows (R3), two function rows. A frame's operand is its payload: the length and
checksum fields of a valid frame are functions of it (R81, R141). -/

namespace Sys2Proof

inductive Instr where
  /-- `GET_WEATHER [payload]` (R153, R154). -/
  | getWeather (payload : List Byte)
  /-- `GET_TIME [payload]` (R155). -/
  | getTime (payload : List Byte)
  /-- `SET_TIME [payload]` (R156). -/
  | setTime (payload : List Byte)
  /-- `SET_CITY [payload]` (R157 to R159). -/
  | setCity (payload : List Byte)
  /-- `GET_FORECAST [payload]` (R160). -/
  | getForecast (payload : List Byte)
  /-- `SYSTEM_STATUS []`, the request (R161). -/
  | systemStatusReq
  /-- `SYSTEM_STATUS [payload]` with a non-empty payload, the report (R163). -/
  | systemStatusReport (payload : List Byte)
  /-- `ACK [payload]` (R164). -/
  | ack (payload : List Byte)
  /-- `NACK [payload]` (R165). -/
  | nack (payload : List Byte)
  /-- `ERROR [payload]` (R166). -/
  | error (payload : List Byte)
  /-- `CMD(command) [payload]` with a command that is none of the nine ids (R167). -/
  | unknownCommand (command : Byte) (payload : List Byte)
  /-- Event `RX_BYTE(b)` (R100). -/
  | rxByte (b : Byte)
  /-- Event `RX_TICK` (R114). -/
  | rxTick
  /-- Event `TX_REQ(cmd, payload)` (R132). -/
  | txReq (cmd : Byte) (payload : List Byte)
  /-- Event `TX_POP` (R135). -/
  | txPop
  /-- Event `TX_ABORT` (R138). -/
  | txAbort
  /-- Event `FORCE_REFRESH_CLR` (R171). -/
  | forceRefreshClr
  /-- Event `RESET` (R220). -/
  | reset
  /-- Function `xor8(p)` (R90). -/
  | xor8 (p : List Byte)
  /-- Function `encode(cmd, payload)` (R130). -/
  | encode (cmd : Byte) (payload : List Byte)
  deriving DecidableEq, Repr

/-- The mnemonic of an instruction's row, as spec/opcode_table.json spells it. -/
def Instr.mnemonic : Instr → String
  | .getWeather _ => "GET_WEATHER"
  | .getTime _ => "GET_TIME"
  | .setTime _ => "SET_TIME"
  | .setCity _ => "SET_CITY"
  | .getForecast _ => "GET_FORECAST"
  | .systemStatusReq => "SYSTEM_STATUS_REQ"
  | .systemStatusReport _ => "SYSTEM_STATUS_REPORT"
  | .ack _ => "ACK"
  | .nack _ => "NACK"
  | .error _ => "ERROR"
  | .unknownCommand _ _ => "UNKNOWN_COMMAND"
  | .rxByte _ => "RX_BYTE"
  | .rxTick => "RX_TICK"
  | .txReq _ _ => "TX_REQ"
  | .txPop => "TX_POP"
  | .txAbort => "TX_ABORT"
  | .forceRefreshClr => "FORCE_REFRESH_CLR"
  | .reset => "RESET"
  | .xor8 _ => "XOR8"
  | .encode _ _ => "ENCODE"

/-- The eleven frame rows: the instructions that have an encoding on the wire. -/
def Instr.isFrame : Instr → Bool
  | .getWeather _ | .getTime _ | .setTime _ | .setCity _ | .getForecast _ | .systemStatusReq | .systemStatusReport _
  | .ack _ | .nack _ | .error _ | .unknownCommand _ _ => true
  | .rxByte _ | .rxTick | .txReq _ _ | .txPop | .txAbort | .forceRefreshClr | .reset | .xor8 _ | .encode _ _ => false

end Sys2Proof
end

