-- ==== Sys2Proof/WellFormed.lean ====
section
/-! DEFINITION. Which operands an instruction may have. A frame's payload has at most 128 bytes (R64); the report row has
at least one byte (R163); the unknown row's command is none of the nine ids (R69); `TX_REQ` carries at most 255 payload
bytes (R3); `encode` is defined up to 128 bytes (R130, R131); `xor8` is defined for any length (R90). -/

namespace Sys2Proof

/-- The instruction's operands are ones the encoding or the event port can carry, under the command ids of `c`. -/
def Instr.wf (c : Cfg) : Instr → Bool
  | .getWeather p | .getTime p | .setTime p | .setCity p | .getForecast p => decide (p.length ≤ Config.maxPayload)
  | .systemStatusReq => true
  | .systemStatusReport p => decide (1 ≤ p.length) && decide (p.length ≤ Config.maxPayload)
  | .ack p | .nack p | .error p => decide (p.length ≤ Config.maxPayload)
  | .unknownCommand cmd p => decide (cmd ∉ c.ids) && decide (p.length ≤ Config.maxPayload)
  | .rxByte _ | .rxTick => true
  | .txReq _ p => decide (p.length ≤ Config.txReqMax)
  | .txPop | .txAbort | .forceRefreshClr | .reset => true
  | .xor8 _ => true
  | .encode _ p => decide (p.length ≤ Config.maxPayload)

end Sys2Proof
end

