-- ==== Sys2Proof/Decode.lean ====
section
/-! DEFINITION. The checksum (40), the wire image of a frame (42 R130), the validity predicate (30 R81), the decoder of
frames into instructions, total on any bytes and rejecting by name, the encoder, and the opcode table's frame rows. -/

namespace Sys2Proof

/-- R90: `xor8`, the XOR fold of the bytes from 0x00. -/
def xor8 (p : List Byte) : Byte := p.foldl (fun a b => a ^^^ b) 0

/-- R92: recompute and compare equal. -/
def verify (payload : List Byte) (c : Byte) : Bool := xor8 payload == c

/-- The length field as an unsigned count, `zext(rx_acc[2])` (R72). -/
abbrev zextLength (b : Byte) : Nat := b.toNat

/-- The byte that holds a payload length (R64). -/
def lengthByte (p : List Byte) : Byte := BitVec.ofNat 8 p.length

/-- The bytes R130 lists: `[START, cmd, |payload|, xor8(payload)] ++ payload`. -/
def frameImage (c : Cfg) (cmd : Byte) (p : List Byte) : List Byte :=
  [c.start, cmd, lengthByte p, xor8 p] ++ p

/-- R130, R131: `encode(cmd, payload)`, defined for at most 128 payload bytes. -/
def encodeFrame (c : Cfg) (cmd : Byte) (p : List Byte) : Option (List Byte) :=
  if p.length ≤ Config.maxPayload then some (frameImage c cmd p) else none

/-- R81: a byte sequence is a valid frame. -/
def validFrame (c : Cfg) (f : List Byte) : Bool :=
  match f with
  | st :: _ :: len :: cks :: p =>
    st == c.start && decide (zextLength len ≤ Config.maxPayload) && decide (p.length = zextLength len) && cks == xor8 p
  | _ => false

/-- Why bytes are no frame (R71, R81). -/
inductive DecodeReject where
  /-- the first byte is not `START` (R62) -/
  | badStart
  /-- the length field is in 129..255 (R64) -/
  | badLength
  /-- fewer bytes than the header and its length field ask for (R67) -/
  | truncated
  /-- the checksum is not `xor8(payload)` (R65) -/
  | badChecksum
  deriving DecidableEq, Repr

/-- The row a valid frame's command and payload belong to: rows are matched in file order, the system-status request
(length 0) before the report, the unknown command last (30_encoding section 7, R68, R69). -/
def selectRow (c : Cfg) (cmd : Byte) (p : List Byte) : Instr :=
  if cmd = c.cmdGetWeather then .getWeather p
  else if cmd = c.cmdGetTime then .getTime p
  else if cmd = c.cmdSetTime then .setTime p
  else if cmd = c.cmdSetCity then .setCity p
  else if cmd = c.cmdGetForecast then .getForecast p
  else if cmd = c.cmdSystemStatus then (if p.length = 0 then .systemStatusReq else .systemStatusReport p)
  else if cmd = c.cmdAck then .ack p
  else if cmd = c.cmdNack then .nack p
  else if cmd = c.cmdError then .error p
  else .unknownCommand cmd p

/-- The first frame of a byte sequence as an instruction, with the bytes after it. The length field is judged before the
checksum (R196). -/
def decode (c : Cfg) (bs : List Byte) : Except DecodeReject (Instr × List Byte) :=
  match bs with
  | [] => .error .truncated
  | st :: rest =>
    if st ≠ c.start then .error .badStart
    else
      match rest with
      | cmd :: len :: cks :: tail =>
        if Config.maxPayload < zextLength len then .error .badLength
        else if tail.length < zextLength len then .error .truncated
        else if verify (tail.take (zextLength len)) cks then
          .ok (selectRow c cmd (tail.take (zextLength len)), tail.drop (zextLength len))
        else .error .badChecksum
      | _ => .error .truncated

/-- The wire bytes of a frame instruction (R60, R130); the event and function rows have no bit pattern
(30_encoding section 7), and a payload over 128 bytes has no encoding (R131). -/
def encode (c : Cfg) : Instr → Option (List Byte)
  | .getWeather p => encodeFrame c c.cmdGetWeather p
  | .getTime p => encodeFrame c c.cmdGetTime p
  | .setTime p => encodeFrame c c.cmdSetTime p
  | .setCity p => encodeFrame c c.cmdSetCity p
  | .getForecast p => encodeFrame c c.cmdGetForecast p
  | .systemStatusReq => encodeFrame c c.cmdSystemStatus []
  | .systemStatusReport p => encodeFrame c c.cmdSystemStatus p
  | .ack p => encodeFrame c c.cmdAck p
  | .nack p => encodeFrame c c.cmdNack p
  | .error p => encodeFrame c c.cmdError p
  | .unknownCommand cmd p => encodeFrame c cmd p
  | .rxByte _ | .rxTick | .txReq _ _ | .txPop | .txAbort | .forceRefreshClr | .reset | .xor8 _ | .encode _ _ => none

/-- R61: the header word, the first byte on the wire in bits 31..24. -/
def headerWord (start command length checksum : Byte) : BitVec 32 := start ++ command ++ length ++ checksum

/-- A frame row of spec/opcode_table.json. -/
structure TableRow where
  mnemonic : String
  pattern : BitVec 32
  mask : BitVec 32
  deriving DecidableEq, Repr

/-- The frame rows in file order, with the default ids of R68. -/
def frameRows : List TableRow :=
  [⟨"GET_WEATHER", 0xAA010000, 0xFFFF0000⟩,
    ⟨"GET_TIME", 0xAA020000, 0xFFFF0000⟩,
    ⟨"SET_TIME", 0xAA030000, 0xFFFF0000⟩,
    ⟨"SET_CITY", 0xAA040000, 0xFFFF0000⟩,
    ⟨"GET_FORECAST", 0xAA050000, 0xFFFF0000⟩,
    ⟨"SYSTEM_STATUS_REQ", 0xAA060000, 0xFFFFFF00⟩,
    ⟨"SYSTEM_STATUS_REPORT", 0xAA060000, 0xFFFF0000⟩,
    ⟨"ACK", 0xAA070000, 0xFFFF0000⟩,
    ⟨"NACK", 0xAA080000, 0xFFFF0000⟩,
    ⟨"ERROR", 0xAA090000, 0xFFFF0000⟩,
    ⟨"UNKNOWN_COMMAND", 0xAA000000, 0xFF000000⟩]

/-- The first row in file order that matches a header word. -/
def firstRow (h : BitVec 32) : Option TableRow := frameRows.find? fun r => h &&& r.mask == r.pattern

/-- The bytes of a table word as the link carries them: bits 31..24 first (R61), then any further byte in the order its
bits count on, zeros above `nbits`, up to the longest frame (log entry 15). -/
def tableBytes (nbits w : Nat) : List Byte :=
  [24, 16, 8, 0].map (fun k => BitVec.ofNat 8 ((w % 2 ^ nbits) >>> k)) ++
    (List.range Config.maxPayload).map (fun k => BitVec.ofNat 8 ((w % 2 ^ nbits) >>> (32 + 8 * k)))

/-- The instruction the decoder reads from a table word, under the default ids. -/
def decodeTableWord (nbits w : Nat) : Option Instr :=
  match decode Cfg.default (tableBytes nbits w) with
  | .ok r => some r.1
  | .error _ => none

end Sys2Proof
end

