-- ==== Sys2Proof/Machine/Memory.lean ====
section
/-! DEFINITION. A byte address space as a list of (offset, byte) pairs in one canonical form: offsets strictly rising, no
entry equal to 0x00, which is what an unlisted offset reads as (DESIGN CHOICE, log entry 6: the spec gives cells that
nothing has written no value, and no rule reads them, R41). -/

namespace Sys2Proof.Machine

abbrev Memory := List Host.Cell

/-- The byte at an offset. -/
def Memory.read : Memory → Nat → Byte
  | [], _ => 0
  | c :: m, a => if c.1 = a then c.2 else Memory.read m a

/-- Put a listed cell in its place among rising offsets. -/
def Memory.place (a : Nat) (b : Byte) : Memory → Memory
  | [] => [(a, b)]
  | c :: m => if a < c.1 then (a, b) :: c :: m else c :: Memory.place a b m

/-- Write one byte; writing 0x00 removes the entry. -/
def Memory.write (m : Memory) (a : Nat) (b : Byte) : Memory :=
  if b = 0 then m.filter (fun c => c.1 != a) else Memory.place a b (m.filter (fun c => c.1 != a))

/-- Write bytes at ascending offsets. -/
def Memory.writeBytes : Memory → Nat → List Byte → Memory
  | m, _, [] => m
  | m, a, b :: bs => Memory.writeBytes (m.write a b) (a + 1) bs

/-- Read `n` bytes in ascending offset order. -/
def Memory.readBytes (m : Memory) : Nat → Nat → List Byte
  | _, 0 => []
  | a, n + 1 => m.read a :: Memory.readBytes m (a + 1) n

/-- A space that holds the bytes from offset 0 and nothing else. -/
def Memory.ofBytes (bs : List Byte) : Memory := Memory.writeBytes [] 0 bs

/-- The canonical form from an offset on. -/
def Memory.wfFrom : Nat → Memory → Bool
  | _, [] => true
  | lo, c :: m => decide (lo ≤ c.1) && decide (c.2 ≠ 0) && Memory.wfFrom (c.1 + 1) m

/-- The canonical form: offsets strictly rising, no entry 0x00. -/
def Memory.wf (m : Memory) : Bool := Memory.wfFrom 0 m

/-- Every listed offset is below `size`. -/
def Memory.within (size : Nat) (m : Memory) : Bool := m.all fun c => decide (c.1 < size)

end Sys2Proof.Machine
end

