-- ==== Sys2Proof/Machine/State.lean ====
section
/-! DEFINITION. The state of one instance of the block (10_state), its input and output records, the reasons a step can
stop, and the state after reset (R220, R221). -/

namespace Sys2Proof.Machine

/-- R10: the decoder's state. -/
inductive RxFsm where
  | idle
  | accumulating
  deriving DecidableEq, Repr

/-- R10's encoding of the state in one bit: `Idle` = 0, `Accumulating` = 1. -/
def RxFsm.code : RxFsm → Nat
  | .idle => 0
  | .accumulating => 1

/-- R190: why the decoder discards a frame. -/
inductive DiscardCause where
  | badLength
  | badChecksum
  | timeout
  deriving DecidableEq, Repr

/-- R192: why the serializer refuses a request. -/
inductive RefuseCause where
  | txBusy
  | txBadLength
  deriving DecidableEq, Repr

/-- R193: why the dispatcher drops an accepted frame. -/
inductive DropCause where
  | unknownCommand
  | unimplemented
  | badPayload
  deriving DecidableEq, Repr

/-- R152: the routes. -/
inductive Route where
  | weatherFetch
  | weatherData
  | citySet
  | statusReq
  | statusReport
  | ack
  | nack
  | error
  | unimplemented
  | unknown
  | badPayload
  deriving DecidableEq, Repr

/-- R24: the record of an accepted frame. -/
structure Frame where
  command : Byte
  length : Byte
  checksum : Byte
  payload : List Byte
  deriving DecidableEq, Repr

/-- R24: `out.rx_ev` other than none. -/
inductive RxEv where
  | started
  | stored
  | stray (b : Byte)
  | accepted (f : Frame)
  | discarded (cause : DiscardCause)
  deriving DecidableEq, Repr

/-- R24, R152: `out.route` other than none. -/
structure RouteOut where
  route : Route
  command : Byte
  length : Byte
  payload : List Byte
  deriving DecidableEq, Repr

/-- R24: `out.reply` other than none. -/
inductive ReplyOut where
  | submitted (cmd : Byte) (payload : List Byte)
  | skipped (cmd : Byte) (payload : List Byte)
  deriving DecidableEq, Repr

/-- R24: `out.tx_ev` other than none. -/
inductive TxEv where
  | taken
  | refused (cause : RefuseCause)
  | byte (b : Byte) (last : Bool)
  | empty
  | aborted
  deriving DecidableEq, Repr

/-- The result of a function row, `XOR8` or `ENCODE`: the model's own output (log entry 12). -/
inductive FnResult where
  | checksum (b : Byte)
  | image (bytes : List Byte)
  deriving DecidableEq, Repr

/-- R24: the output record of one step, each field none unless the step's rules set it. -/
structure Out where
  rxEv : Option RxEv
  route : Option RouteOut
  reply : Option ReplyOut
  txEv : Option TxEv
  fn : Option FnResult
  deriving DecidableEq, Repr

/-- All fields none. -/
def Out.silent : Out where
  rxEv := none
  route := none
  reply := none
  txEv := none
  fn := none

/-- R23: the sampled status inputs. -/
structure Env where
  linkUp : Bool
  weatherValid : Bool
  timeSynced : Bool
  batteryPct : Byte
  uptimeS : BitVec 32
  deriving DecidableEq, Repr

/-- R3: the seven input events. -/
inductive Event where
  | reset
  | rxByte (b : Byte)
  | rxTick
  | txReq (cmd : Byte) (payload : List Byte)
  | txPop
  | txAbort
  | forceRefreshClr
  deriving DecidableEq, Repr

/-- The row of the opcode table an event is. -/
def Event.instr : Event → Instr
  | .reset => .reset
  | .rxByte b => .rxByte b
  | .rxTick => .rxTick
  | .txReq cmd p => .txReq cmd p
  | .txPop => .txPop
  | .txAbort => .txAbort
  | .forceRefreshClr => .forceRefreshClr

/-- One delivery: an event and the status inputs of its step (R3; log entries 3, 4). -/
structure Input where
  event : Event
  env : Env
  deriving DecidableEq, Repr

/-- R21: the twelve counters by name, in index order. -/
inductive Counter where
  | rxAccept
  | rxStray
  | rxBadLen
  | rxBadCks
  | rxTimeout
  | dspUnknown
  | dspUnimpl
  | dspBadPayload
  | txFrames
  | txSkip
  | txBadLen
  | txAbort
  deriving DecidableEq, Repr

/-- R21: the twelve counters. -/
structure Counters where
  rxAccept : CounterWord
  rxStray : CounterWord
  rxBadLen : CounterWord
  rxBadCks : CounterWord
  rxTimeout : CounterWord
  dspUnknown : CounterWord
  dspUnimpl : CounterWord
  dspBadPayload : CounterWord
  txFrames : CounterWord
  txSkip : CounterWord
  txBadLen : CounterWord
  txAbort : CounterWord
  deriving DecidableEq, Repr

/-- R220: every counter 0. -/
def Counters.zero : Counters where
  rxAccept := 0
  rxStray := 0
  rxBadLen := 0
  rxBadCks := 0
  rxTimeout := 0
  dspUnknown := 0
  dspUnimpl := 0
  dspBadPayload := 0
  txFrames := 0
  txSkip := 0
  txBadLen := 0
  txAbort := 0

/-- The state of one instance (10_state section 1), the constant `cfg` (R4), and the inputs and outputs of its steps.
Counts (`rxN`, `rxStall`, `txN`, `txIdx`) are Nats: the spec computes them without bound and states their ranges
(00_scope section 6; log entry 8). -/
structure State where
  /-- R4, constant. -/
  cfg : Cfg
  /-- R23, the status inputs of the step in progress (log entry 4). -/
  env : Env
  /-- The deliveries not yet made, oldest first (log entry 3). -/
  inputs : List Input
  /-- R10. -/
  rxFsm : RxFsm
  /-- R11. -/
  rxN : Nat
  /-- R12. -/
  rxExpValid : Bool
  /-- R12. -/
  rxExp : Byte
  /-- R13, the space `RXACC`. -/
  rxAcc : Memory
  /-- R14. -/
  rxStall : Nat
  /-- R16. -/
  txBusy : Bool
  /-- R17, the space `TXBUF`. -/
  txBuf : Memory
  /-- R17. -/
  txN : Nat
  /-- R17. -/
  txIdx : Nat
  /-- R19, the space `CITY`. -/
  activeCity : Memory
  /-- R20. -/
  forceRefresh : Bool
  /-- R21. -/
  cnt : Counters
  /-- R24, the output record of the latest step (log entry 5). -/
  out : Out
  deriving DecidableEq, Repr

/-- R24: the outputs visible between steps. -/
structure Levels where
  rxActive : Bool
  txBusy : Bool
  forceRefresh : Bool
  activeCity : List Byte
  cnt : Counters
  deriving DecidableEq, Repr

/-- Reasons the machine stops. The spec has none (R202): each is raised only in a state that breaks R15 or R18, where no
rule of the spec applies, and is safe (log entry 9). -/
inductive Fault where
  /-- An access past the end of `RXACC`, `TXBUF` or `CITY`, an offset that does not exist (R41). Raised by `RX_BYTE`
  (append, payload read), by the image write of `TX_REQ` and of a reply, by `TX_POP` and by `SET_CITY`. Safe. -/
  | noSuchOffset
  /-- `TX_POP` while busy with `tx_idx + 1 > tx_n`, which neither R135 nor R136 covers. Raised by `TX_POP`. Safe. -/
  | popBeyondFrame
  deriving DecidableEq, Repr

/-- Reasons an instruction is refused. -/
inductive Refusal where
  /-- An instruction without a meaning yet. Raised by `exec`. Safe. -/
  | notModelled (mnemonic : String)
  /-- R5: a model refuses a `cfg` that is not well-formed. Raised by `step`. Safe (log entry 10). -/
  | illFormedCfg
  /-- R131 (93 U3: refuse): `encode` of more than 128 payload bytes is not defined. Raised by the row `ENCODE`. Safe
  (log entry 13). -/
  | encodeOutsideDomain
  /-- R205, R224: the two ends of a link have opposite roles and agree on `START` and the nine ids. Raised by
  `Pair.transfer` for two instances that do not. Safe (log entry 23). -/
  | mismatchedPair
  deriving DecidableEq, Repr

/-- The machine right after reset (R220, R221) with the default parameters, no input pending and no output. The registers
R221 leaves unspecified are zero (DESIGN CHOICE, log entry 6). -/
def State.reset : State where
  cfg := Cfg.default
  env := { linkUp := false, weatherValid := false, timeSynced := false, batteryPct := 0, uptimeS := 0 }
  inputs := []
  rxFsm := .idle
  rxN := 0
  rxExpValid := false
  rxExp := 0
  rxAcc := []
  rxStall := 0
  txBusy := false
  txBuf := []
  txN := 0
  txIdx := 0
  activeCity := Memory.ofBytes Cfg.default.cityReset
  forceRefresh := false
  cnt := Counters.zero
  out := Out.silent

end Sys2Proof.Machine
end

