-- ==== Sys2Proof/Machine/Flags.lean ====
section
/-! DEFINITION. Every flag, flag condition and counter computation: numeric codes, the counters' increment (R22), the
conditions the decoder and the serializer test, the flag bytes of the status record (R73), the level outputs (R24). -/

namespace Sys2Proof.Machine

/-- R190's codes. -/
def DiscardCause.code : DiscardCause → Nat
  | .badLength => 1
  | .badChecksum => 2
  | .timeout => 3

/-- R192's codes. -/
def RefuseCause.code : RefuseCause → Nat
  | .txBusy => 1
  | .txBadLength => 2

/-- R193's codes. -/
def DropCause.code : DropCause → Nat
  | .unknownCommand => 1
  | .unimplemented => 2
  | .badPayload => 3

/-- R152's codes. -/
def Route.code : Route → Nat
  | .weatherFetch => 1
  | .weatherData => 2
  | .citySet => 3
  | .statusReq => 4
  | .statusReport => 5
  | .ack => 6
  | .nack => 7
  | .error => 8
  | .unimplemented => 9
  | .unknown => 10
  | .badPayload => 11

/-- R21's index numbers. -/
def Counter.index : Counter → Nat
  | .rxAccept => 0
  | .rxStray => 1
  | .rxBadLen => 2
  | .rxBadCks => 3
  | .rxTimeout => 4
  | .dspUnknown => 5
  | .dspUnimpl => 6
  | .dspBadPayload => 7
  | .txFrames => 8
  | .txSkip => 9
  | .txBadLen => 10
  | .txAbort => 11

/-- The value of a counter. -/
def Counters.get (c : Counters) : Counter → CounterWord
  | .rxAccept => c.rxAccept
  | .rxStray => c.rxStray
  | .rxBadLen => c.rxBadLen
  | .rxBadCks => c.rxBadCks
  | .rxTimeout => c.rxTimeout
  | .dspUnknown => c.dspUnknown
  | .dspUnimpl => c.dspUnimpl
  | .dspBadPayload => c.dspBadPayload
  | .txFrames => c.txFrames
  | .txSkip => c.txSkip
  | .txBadLen => c.txBadLen
  | .txAbort => c.txAbort

/-- R22: one counter plus one, modulo 2^32. -/
def Counters.bump (k : Counter) (c : Counters) : Counters :=
  match k with
  | .rxAccept => { c with rxAccept := c.rxAccept + 1 }
  | .rxStray => { c with rxStray := c.rxStray + 1 }
  | .rxBadLen => { c with rxBadLen := c.rxBadLen + 1 }
  | .rxBadCks => { c with rxBadCks := c.rxBadCks + 1 }
  | .rxTimeout => { c with rxTimeout := c.rxTimeout + 1 }
  | .dspUnknown => { c with dspUnknown := c.dspUnknown + 1 }
  | .dspUnimpl => { c with dspUnimpl := c.dspUnimpl + 1 }
  | .dspBadPayload => { c with dspBadPayload := c.dspBadPayload + 1 }
  | .txFrames => { c with txFrames := c.txFrames + 1 }
  | .txSkip => { c with txSkip := c.txSkip + 1 }
  | .txBadLen => { c with txBadLen := c.txBadLen + 1 }
  | .txAbort => { c with txAbort := c.txAbort + 1 }

/-- `cnt_k <- cnt_k + 1` (R22). -/
def State.bump (k : Counter) (s : State) : State := { s with cnt := s.cnt.bump k }

/-- R190: the counter of a discard cause. -/
def DiscardCause.counter : DiscardCause → Counter
  | .badLength => .rxBadLen
  | .badChecksum => .rxBadCks
  | .timeout => .rxTimeout

/-- R192: the counter of a refusal cause. -/
def RefuseCause.counter : RefuseCause → Counter
  | .txBusy => .txSkip
  | .txBadLength => .txBadLen

/-- R193: the counter of a drop cause. -/
def DropCause.counter : DropCause → Counter
  | .unknownCommand => .dspUnknown
  | .unimplemented => .dspUnimpl
  | .badPayload => .dspBadPayload

/-- R193: the route of a drop cause. -/
def DropCause.route : DropCause → Route
  | .unknownCommand => .unknown
  | .unimplemented => .unimplemented
  | .badPayload => .badPayload

/-- The source's `active` flag, the level output `rx_active` (R10, R24). -/
def State.rxActive (s : State) : Bool := s.rxFsm == .accumulating

/-- R104, R105: after the append, the length field is due to be read. -/
def State.lengthDue (s : State) : Bool := !s.rxExpValid && decide (Config.headerSize ≤ s.rxN)

/-- R106: after the append and the latch, the frame is complete. -/
def State.frameComplete (s : State) : Bool :=
  s.rxExpValid && decide (Config.headerSize + zextLength s.rxExp ≤ s.rxN)

/-- R115: this tick reaches the stall bound. -/
def State.stallExpires (s : State) : Bool := decide (s.cfg.stallLimit ≤ s.rxStall + 1)

/-- R73, R162: the byte of a flag in the status record. -/
def flagByte (c : Cfg) (b : Bool) : Byte := if b then c.flagTrue else 0

/-- R24: the level outputs. -/
def State.levels (s : State) : Levels where
  rxActive := s.rxActive
  txBusy := s.txBusy
  forceRefresh := s.forceRefresh
  activeCity := s.activeCity.readBytes 0 Config.cityBuf
  cnt := s.cnt

end Sys2Proof.Machine
end

