-- ==== Sys2Proof/Machine/Ops.lean ====
section
/-! DEFINITION. The named operations over the byte spaces (20 R40 to R43) and the registers, and the shared operations of
the three exceptional outcomes: discard (R198), refusal (R192), drop (R193). A discard is this block's exception entry;
its return is resynchronization by the ordinary rules R101 and R102 (R200): there is no return instruction. -/

namespace Sys2Proof.Machine

/-- R40: the address spaces that have addresses. -/
inductive Space where
  | rxAcc
  | txBuf
  | city
  deriving DecidableEq, Repr

/-- R40: how many bytes a space has. -/
def Space.size : Space → Nat
  | .rxAcc => Config.accCap
  | .txBuf => Config.accCap
  | .city => Config.cityBuf

/-- The contents of a space. -/
def State.space (sp : Space) (s : State) : Memory :=
  match sp with
  | .rxAcc => s.rxAcc
  | .txBuf => s.txBuf
  | .city => s.activeCity

/-- A state with a space's contents replaced. -/
def State.setSpace (sp : Space) (m : Memory) (s : State) : State :=
  match sp with
  | .rxAcc => { s with rxAcc := m }
  | .txBuf => { s with txBuf := m }
  | .city => { s with activeCity := m }

/-- `MemRead(space, addr, n)` (00_scope section 6); none where an offset does not exist (R41). -/
def memRead (sp : Space) (a n : Nat) (s : State) : Option (List Byte) :=
  if a + n ≤ sp.size then some ((s.space sp).readBytes a n) else none

/-- `MemWrite(space, addr, n, v)` (00_scope section 6); none where an offset does not exist (R41). -/
def memWrite (sp : Space) (a : Nat) (bs : List Byte) (s : State) : Option State :=
  if a + bs.length ≤ sp.size then some (s.setSpace sp ((s.space sp).writeBytes a bs)) else none

/-- The start of an event's step: every output field none (R24). -/
def State.beginStep (s : State) : State := { s with out := Out.silent }

/-- `out.rx_ev <- e`. -/
def State.setRxEv (e : RxEv) (s : State) : State := { s with out := { s.out with rxEv := some e } }

/-- `out.tx_ev <- e`. -/
def State.setTxEv (e : TxEv) (s : State) : State := { s with out := { s.out with txEv := some e } }

/-- `out.reply <- r`. -/
def State.setReply (r : ReplyOut) (s : State) : State := { s with out := { s.out with reply := some r } }

/-- A function row's result (log entry 12). -/
def State.setFn (r : FnResult) (s : State) : State := { s with out := { s.out with fn := some r } }

/-- R111: the return to `Idle`. The accumulator and `rx_exp` become non-architectural and keep what they hold
(log entry 7). -/
def State.toIdle (s : State) : State := { s with rxFsm := .idle, rxN := 0, rxExpValid := false, rxStall := 0 }

/-- R198: `raise Discard(cause)`. -/
def discardFrame (cause : DiscardCause) (s : State) : State :=
  ((s.toIdle).bump cause.counter).setRxEv (.discarded cause)

/-- R192: `raise Refuse(cause)` on a `TX_REQ`. -/
def refuse (cause : RefuseCause) (s : State) : State := (s.bump cause.counter).setTxEv (.refused cause)

/-- R152, R172: the route strobe with the frame as received; no reply unless the command's rule produces one. -/
def routeTo (r : Route) (cmd : Byte) (p : List Byte) (s : State) : State :=
  { s with out := { s.out with route := some ⟨r, cmd, lengthByte p, p⟩, reply := none } }

/-- R193: `raise Drop(cause)`: the observer route and the counter, nothing else. -/
def drop (cause : DropCause) (cmd : Byte) (p : List Byte) (s : State) : State :=
  routeTo cause.route cmd p (s.bump cause.counter)

/-- R132, R139: the frame's image into `TXBUF` and the serializer busy; none where `encode` is not defined (R131) or the
image does not fit, which 128 payload bytes do. -/
def loadFrame (cmd : Byte) (p : List Byte) (s : State) : Option State :=
  match encodeFrame s.cfg cmd p with
  | none => none
  | some img =>
    match memWrite .txBuf 0 img s with
    | none => none
    | some t => some { t with txN := img.length, txIdx := 0, txBusy := true }

/-- R139, R168, R169: a reply is offered to the serializer in the same step. -/
def submitReply (cmd : Byte) (p : List Byte) (s : State) : Host.Outcome State Fault Refusal :=
  if s.txBusy then .next ((s.bump .txSkip).setReply (.skipped cmd p))
  else
    match loadFrame cmd p s with
    | some t => .next (t.setReply (.submitted cmd p))
    | none => .fault .noSuchOffset

end Sys2Proof.Machine
end

