-- ==== Sys2Proof/Machine/Functions.lean ====
section
/-! DEFINITION. The two function rows, `XOR8` (40 R90) and `ENCODE` (42 R130, R131): pure functions of their operands that
write no state. Their result is reported in `out.fn`, the model's own output (log entry 12). -/

namespace Sys2Proof.Machine

/-- R90: `xor8(p)`. -/
def execXor8 (p : List Byte) (s : State) : Host.Outcome State Fault Refusal :=
  .next (s.beginStep.setFn (.checksum (xor8 p)))

/-- R130: `encode(cmd, payload)`; R131, 93 U3: refused above 128 payload bytes, where it is not defined. -/
def execEncode (cmd : Byte) (p : List Byte) (s : State) : Host.Outcome State Fault Refusal :=
  match encodeFrame s.cfg cmd p with
  | some img => .next (s.beginStep.setFn (.image img))
  | none => .refused .encodeOutsideDomain

end Sys2Proof.Machine
end

