-- ==== Sys2Proof/Machine/Operands.lean ====
section
/-! DEFINITION. The operand forms of the block: the four buffer addressing forms of R121, and the operands the dispatcher
assembles (status record R162, city string R74). -/

namespace Sys2Proof.Machine

/-- R121 (i), R103: append with post-increment; progress clears the stall counter. -/
def appendByte (b : Byte) (s : State) : Option State :=
  match memWrite .rxAcc s.rxN [b] s with
  | none => none
  | some t => some { t with rxN := s.rxN + 1, rxStall := 0 }

/-- R121 (ii): read at a fixed offset of the header, 1, 2 or 3. -/
def headerByte (k : Fin 4) (s : State) : Byte := s.rxAcc.read k

/-- R121 (iii), R107: block read of the payload, with the length from the frame. -/
def payloadBlock (len : Byte) (s : State) : Option (List Byte) := memRead .rxAcc Config.headerSize (zextLength len) s

/-- R107: the fields of the complete frame. -/
def extractFrame (s : State) : Option Frame :=
  match payloadBlock (headerByte 2 s) s with
  | none => none
  | some p => some { command := headerByte 1 s, length := headerByte 2 s, checksum := headerByte 3 s, payload := p }

/-- R121 (iv), R135: the byte of the pending frame at `tx_idx`. -/
def pendingByte (s : State) : Option Byte :=
  match memRead .txBuf s.txIdx 1 s with
  | some [b] => some b
  | _ => none

/-- R74, R157: a city string as the register's 32 bytes. -/
def cityPad (p : List Byte) : List Byte := p ++ List.replicate (Config.cityBuf - p.length) 0

/-- R19: the string the city register holds, up to the first 0x00. -/
def State.cityString (s : State) : List Byte :=
  (s.activeCity.readBytes 0 Config.cityBuf).takeWhile fun b => b != 0

/-- R162: the status record, uptime least significant byte first (R45). -/
def statusRecord (c : Cfg) (e : Env) : List Byte :=
  [flagByte c e.linkUp, flagByte c e.weatherValid, flagByte c e.timeSynced, e.batteryPct, e.uptimeS.extractLsb' 0 8,
    e.uptimeS.extractLsb' 8 8, e.uptimeS.extractLsb' 16 8, e.uptimeS.extractLsb' 24 8]

end Sys2Proof.Machine
end

