-- ==== Sys2Proof/Machine/Routing.lean ====
section
/-! DEFINITION. The Command Dispatcher (43): the meaning of each frame row, which is what the dispatcher does with an
accepted frame, and the dispatch of a frame (R151). A frame runs inside the `RX_BYTE` step that accepts it (R55): its
meaning sets `out.route` and `out.reply` and leaves that step's `out.rx_ev` (log entry 11). -/

namespace Sys2Proof.Machine

/-- R153, R154: `GET_WEATHER`. -/
def execGetWeather (p : List Byte) (s : State) : Host.Outcome State Fault Refusal :=
  match s.cfg.role with
  | .connectivity => submitReply s.cfg.cmdAck [] (routeTo .weatherFetch s.cfg.cmdGetWeather p s)
  | .display => .next (routeTo .weatherData s.cfg.cmdGetWeather p s)

/-- R155: `GET_TIME`. -/
def execGetTime (p : List Byte) (s : State) : Host.Outcome State Fault Refusal :=
  .next (drop .unimplemented s.cfg.cmdGetTime p s)

/-- R156: `SET_TIME`. -/
def execSetTime (p : List Byte) (s : State) : Host.Outcome State Fault Refusal :=
  .next (drop .unimplemented s.cfg.cmdSetTime p s)

/-- R157, R158, R159: `SET_CITY`; the role is tested before the length (R196). -/
def execSetCity (p : List Byte) (s : State) : Host.Outcome State Fault Refusal :=
  match s.cfg.role with
  | .display => .next (drop .unimplemented s.cfg.cmdSetCity p s)
  | .connectivity =>
    if p.length ≤ Config.cityMax then
      match memWrite .city 0 (cityPad p) s with
      | some t => .next (routeTo .citySet s.cfg.cmdSetCity p { t with forceRefresh := true })
      | none => .fault .noSuchOffset
    else .next (drop .badPayload s.cfg.cmdSetCity p s)

/-- R160: `GET_FORECAST`. -/
def execGetForecast (p : List Byte) (s : State) : Host.Outcome State Fault Refusal :=
  .next (drop .unimplemented s.cfg.cmdGetForecast p s)

/-- R161: `SYSTEM_STATUS []`, the request; `env` is sampled in this step (R59). -/
def execSystemStatusReq (s : State) : Host.Outcome State Fault Refusal :=
  submitReply s.cfg.cmdSystemStatus (statusRecord s.cfg s.env) (routeTo .statusReq s.cfg.cmdSystemStatus [] s)

/-- R163: `SYSTEM_STATUS` with a payload, the report. -/
def execSystemStatusReport (p : List Byte) (s : State) : Host.Outcome State Fault Refusal :=
  .next (routeTo .statusReport s.cfg.cmdSystemStatus p s)

/-- R164: `ACK`. -/
def execAck (p : List Byte) (s : State) : Host.Outcome State Fault Refusal := .next (routeTo .ack s.cfg.cmdAck p s)

/-- R165: `NACK`. -/
def execNack (p : List Byte) (s : State) : Host.Outcome State Fault Refusal := .next (routeTo .nack s.cfg.cmdNack p s)

/-- R166: `ERROR`. -/
def execError (p : List Byte) (s : State) : Host.Outcome State Fault Refusal := .next (routeTo .error s.cfg.cmdError p s)

/-- R167: a command that is none of the nine ids. -/
def execUnknownCommand (cmd : Byte) (p : List Byte) (s : State) : Host.Outcome State Fault Refusal :=
  .next (drop .unknownCommand cmd p s)

/-- R151: the dispatch of an accepted frame, by command, then role, then length (R196). -/
def dispatch (f : Frame) (s : State) : Host.Outcome State Fault Refusal :=
  if f.command = s.cfg.cmdGetWeather then execGetWeather f.payload s
  else if f.command = s.cfg.cmdGetTime then execGetTime f.payload s
  else if f.command = s.cfg.cmdSetTime then execSetTime f.payload s
  else if f.command = s.cfg.cmdSetCity then execSetCity f.payload s
  else if f.command = s.cfg.cmdGetForecast then execGetForecast f.payload s
  else if f.command = s.cfg.cmdSystemStatus then
    (if f.payload.length = 0 then execSystemStatusReq s else execSystemStatusReport f.payload s)
  else if f.command = s.cfg.cmdAck then execAck f.payload s
  else if f.command = s.cfg.cmdNack then execNack f.payload s
  else if f.command = s.cfg.cmdError then execError f.payload s
  else execUnknownCommand f.command f.payload s

end Sys2Proof.Machine
end

