-- ==== Sys2Proof/Machine/Receiver.lean ====
section
/-! DEFINITION. The Frame Decoder (41): `RX_BYTE` and `RX_TICK`. -/

namespace Sys2Proof.Machine

/-- R101: frame start. -/
def frameStart (b : Byte) (s : State) : Host.Outcome State Fault Refusal :=
  match memWrite .rxAcc 0 [b] s with
  | some t => .next ({ t with rxN := 1, rxExpValid := false, rxStall := 0, rxFsm := .accumulating }.setRxEv .started)
  | none => .fault .noSuchOffset

/-- R102: a stray byte. -/
def strayByte (b : Byte) (s : State) : State := (s.bump .rxStray).setRxEv (.stray b)

/-- R109: accept, return to `Idle`, dispatch, in this step and this order (R55). -/
def acceptFrame (f : Frame) (s : State) : Host.Outcome State Fault Refusal :=
  dispatch f (((s.bump .rxAccept).setRxEv (.accepted f)).toIdle)

/-- R107, R108, R109, R110: a complete frame is extracted, validated, and accepted or discarded. -/
def completeFrame (s : State) : Host.Outcome State Fault Refusal :=
  match extractFrame s with
  | none => .fault .noSuchOffset
  | some f =>
    if verify f.payload f.checksum && decide (zextLength f.length ≤ Config.maxPayload) then acceptFrame f s
    else .next (discardFrame .badChecksum s)

/-- R106: complete the frame if its last byte has come, else the byte is stored. -/
def storeOrComplete (s : State) : Host.Outcome State Fault Refusal :=
  if s.frameComplete then completeFrame s else .next (s.setRxEv .stored)

/-- R104, R105: after the append, the length field is read once, rejected or latched. -/
def afterAppend (s : State) : Host.Outcome State Fault Refusal :=
  if s.lengthDue then
    if Config.maxPayload < zextLength (headerByte 2 s) then .next (discardFrame .badLength s)
    else storeOrComplete { s with rxExp := headerByte 2 s, rxExpValid := true }
  else storeOrComplete s

/-- R100: `RX_BYTE(b)`. -/
def execRxByte (b : Byte) (s : State) : Host.Outcome State Fault Refusal :=
  match s.rxFsm with
  | .idle => if b = s.cfg.start then frameStart b s.beginStep else .next (strayByte b s.beginStep)
  | .accumulating =>
    match appendByte b s.beginStep with
    | none => .fault .noSuchOffset
    | some t => afterAppend t

/-- R114, R115: `RX_TICK`. -/
def execRxTick (s : State) : Host.Outcome State Fault Refusal :=
  match s.rxFsm with
  | .idle => .next s.beginStep
  | .accumulating =>
    if s.stallExpires then .next (discardFrame .timeout s.beginStep)
    else .next { s.beginStep with rxStall := s.rxStall + 1 }

end Sys2Proof.Machine
end

