-- ==== Sys2Proof/Machine/Serializer.lean ====
section
/-! DEFINITION. The serializer (42): `TX_REQ`, `TX_POP`, `TX_ABORT`. -/

namespace Sys2Proof.Machine

/-- R132, R133, R134: `TX_REQ(cmd, payload)`; the length is tested before the busy flag (R196). -/
def execTxReq (cmd : Byte) (p : List Byte) (s : State) : Host.Outcome State Fault Refusal :=
  if Config.maxPayload < p.length then .next (refuse .txBadLength s.beginStep)
  else if s.txBusy then .next (refuse .txBusy s.beginStep)
  else
    match loadFrame cmd p s.beginStep with
    | some t => .next (t.setTxEv .taken)
    | none => .fault .noSuchOffset

/-- R135, R136, R137: `TX_POP`. -/
def execTxPop (s : State) : Host.Outcome State Fault Refusal :=
  if s.txBusy then
    match pendingByte s with
    | none => .fault .noSuchOffset
    | some b =>
      if s.txIdx + 1 < s.txN then .next ({ s.beginStep with txIdx := s.txIdx + 1 }.setTxEv (.byte b false))
      else if s.txIdx + 1 = s.txN then
        .next (({ s.beginStep with txBusy := false }.bump .txFrames).setTxEv (.byte b true))
      else .fault .popBeyondFrame
  else .next (s.beginStep.setTxEv .empty)

/-- R138: `TX_ABORT`. -/
def execTxAbort (s : State) : Host.Outcome State Fault Refusal :=
  if s.txBusy then .next (({ s.beginStep with txBusy := false }.bump .txAbort).setTxEv .aborted)
  else .next s.beginStep

end Sys2Proof.Machine
end

