-- ==== Sys2Proof/Machine/System.lean ====
section
/-! DEFINITION. The operations of the host: `RESET` (70 R220) and `FORCE_REFRESH_CLR` (43 R171). -/

namespace Sys2Proof.Machine

/-- R220: `RESET`, in every state. `cfg` is constant, `env` and the inputs not yet delivered are not the block's, and the
registers R221 leaves unspecified keep what they hold (log entry 7). -/
def execReset (s : State) : Host.Outcome State Fault Refusal :=
  .next
    { s with
      rxFsm := .idle
      rxN := 0
      rxExpValid := false
      rxStall := 0
      txBusy := false
      activeCity := Memory.ofBytes s.cfg.cityReset
      forceRefresh := false
      cnt := Counters.zero
      out := Out.silent }

/-- R171: `FORCE_REFRESH_CLR`. -/
def execForceRefreshClr (s : State) : Host.Outcome State Fault Refusal :=
  .next { s.beginStep with forceRefresh := false }

end Sys2Proof.Machine
end

