-- ==== Sys2Proof/Machine/Dispatch.lean ====
section
/-! DEFINITION. One arm per instruction: its meaning. -/

namespace Sys2Proof.Machine

def exec (i : Instr) (s : State) : Host.Outcome State Fault Refusal :=
  match i with
  | .getWeather p => Sys2Proof.Machine.execGetWeather p s
  | .getTime p => Sys2Proof.Machine.execGetTime p s
  | .setTime p => Sys2Proof.Machine.execSetTime p s
  | .setCity p => Sys2Proof.Machine.execSetCity p s
  | .getForecast p => Sys2Proof.Machine.execGetForecast p s
  | .systemStatusReq => Sys2Proof.Machine.execSystemStatusReq s
  | .systemStatusReport p => Sys2Proof.Machine.execSystemStatusReport p s
  | .ack p => Sys2Proof.Machine.execAck p s
  | .nack p => Sys2Proof.Machine.execNack p s
  | .error p => Sys2Proof.Machine.execError p s
  | .unknownCommand cmd p => Sys2Proof.Machine.execUnknownCommand cmd p s
  | .rxByte b => Sys2Proof.Machine.execRxByte b s
  | .rxTick => Sys2Proof.Machine.execRxTick s
  | .txReq cmd p => Sys2Proof.Machine.execTxReq cmd p s
  | .txPop => Sys2Proof.Machine.execTxPop s
  | .txAbort => Sys2Proof.Machine.execTxAbort s
  | .forceRefreshClr => Sys2Proof.Machine.execForceRefreshClr s
  | .reset => Sys2Proof.Machine.execReset s
  | .xor8 p => Sys2Proof.Machine.execXor8 p s
  | .encode cmd p => Sys2Proof.Machine.execEncode cmd p s

end Sys2Proof.Machine
end

