-- ==== Sys2Proof/Machine/Fetch.lean ====
section
/-! DEFINITION. How the next event reaches the block (R3): the oldest pending delivery is taken with its status inputs;
and how a frame is placed so that its last byte is the next event (log entries 3, 14). -/

namespace Sys2Proof.Machine

/-- The state in which the oldest pending event is handled: the delivery is consumed and its status inputs are sampled. -/
def State.deliver (i : Input) (rest : List Input) (s : State) : State := { s with inputs := rest, env := i.env }

/-- An event made the next delivery, ahead of those pending, under the status inputs sampled last (log entries 14, 20). -/
def State.presentEvent (e : Event) (s : State) : State := { s with inputs := ⟨e, s.env⟩ :: s.inputs }

/-- How many bytes the frame at the head of `bs` has, as the decoder counts them: 4 + length, or 4 where the length field
is rejected at the fourth byte (R67, R105). -/
def frameSpan (bs : List Byte) : Nat :=
  if zextLength (bs.getD 2 0) ≤ Config.maxPayload then Config.headerSize + zextLength (bs.getD 2 0) else Config.headerSize

/-- All bytes of the frame at the head of `bs` received but the last, and the last one pending as the next event, ahead of
the inputs that were pending. Bytes that do not begin with `START` are no frame: their first byte is the next event,
in `Idle`. -/
def presentFrame (bs : List Byte) (s : State) : State :=
  if bs.getD 0 0 = s.cfg.start then
    State.presentEvent (.rxByte (bs.getD (frameSpan bs - 1) 0))
      { s with
        rxFsm := .accumulating
        rxN := frameSpan bs - 1
        rxExpValid := decide (Config.headerSize ≤ frameSpan bs - 1)
        rxExp := bs.getD 2 0
        rxAcc := s.rxAcc.writeBytes 0 (bs.take (frameSpan bs - 1))
        rxStall := 0 }
  else s.toIdle.presentEvent (.rxByte (bs.getD 0 0))

end Sys2Proof.Machine
end

