-- ==== Sys2Proof/Machine/Step.lean ====
section
/-! DEFINITION. One step (R3): the oldest pending event is handled, atomically. With no event pending nothing happens but
that the strobes of the step before are gone (log entry 3). A `cfg` that is not well-formed is refused (R5). -/

namespace Sys2Proof.Machine

def step (s : State) : Host.Outcome State Fault Refusal :=
  if s.cfg.wf then
    match s.inputs with
    | [] => .next s.beginStep
    | i :: rest => exec i.event.instr (s.deliver i rest)
  else .refused .illFormedCfg

/-- The table word's frame received up to its last byte, and that byte pending, so that the next step accepts and
dispatches it (log entry 14). -/
def State.withFetchWord (s : State) (nbits w : Nat) : State := presentFrame (tableBytes nbits w) s

end Sys2Proof.Machine
end

