-- ==== Sys2Proof/Machine/Cycle.lean ====
section
/-! DEFINITION. Events that fall in one clock cycle (R6, R197): a clocked implementation behaves as if they were delivered
one after another in a fixed order, and `RESET` cancels the others. An implementation with another order is covered by
any other list of inputs (93 U11; log entry 17). -/

namespace Sys2Proof.Machine

/-- The events of one clock cycle, at most one of a kind. -/
structure CycleEvents where
  reset : Bool
  rxByte : Option Byte
  rxTick : Bool
  txAbort : Bool
  txPop : Bool
  txReq : Option (Byte × List Byte)
  forceRefreshClr : Bool
  deriving DecidableEq, Repr

/-- The event, if it is present. -/
def eventWhen (present : Bool) (e : Event) : List Event := if present then [e] else []

/-- R6: the order in which the events of a cycle are delivered. -/
def CycleEvents.ordered (c : CycleEvents) : List Event :=
  if c.reset then [.reset]
  else
    (c.rxByte.map Event.rxByte).toList ++ eventWhen c.rxTick .rxTick ++ eventWhen c.txAbort .txAbort ++
      eventWhen c.txPop .txPop ++ (c.txReq.map fun r => Event.txReq r.1 r.2).toList ++
      eventWhen c.forceRefreshClr .forceRefreshClr

/-- A cycle's events join the pending deliveries, under one sample of the status inputs. -/
def State.addCycle (c : CycleEvents) (e : Env) (s : State) : State :=
  { s with inputs := s.inputs ++ c.ordered.map fun ev => ⟨ev, e⟩ }

end Sys2Proof.Machine
end

