-- ==== Sys2Proof/Machine/Trace.lean ====
section
/-! DEFINITION. What an observer of the block sees over several steps: the output record of each (R24), and the byte
stream the link takes, `TXSTREAM` (R40, R53). -/

namespace Sys2Proof.Machine

/-- The output records of `n` steps, in order, and the state after them; the first fault or refusal ends it. -/
def trace : Nat → State → Host.Outcome (List Out × State) Fault Refusal
  | 0, s => .next ([], s)
  | n + 1, s =>
    match step s with
    | .fault r => .fault r
    | .refused r => .refused r
    | .next t =>
      match trace n t with
      | .fault r => .fault r
      | .refused r => .refused r
      | .next (os, u) => .next (t.out :: os, u)

/-- The byte a step hands to the link, if any. -/
def Out.wireByte (o : Out) : Option Byte :=
  match o.txEv with
  | some (.byte b _) => some b
  | _ => none

/-- `TXSTREAM`: the bytes handed to the link over a run, in emission order. -/
def txStream (os : List Out) : List Byte := os.filterMap Out.wireByte

/-- The deliveries of consecutive `RX_BYTE` events under one sample of the status inputs. -/
def byteInputs (bs : List Byte) (e : Env) : List Input := bs.map fun b => ⟨.rxByte b, e⟩

end Sys2Proof.Machine
end

