-- ==== Sys2Proof/Machine/Link.lean ====
section
/-! DEFINITION. Two instances of the block (R205, R117): they share no state, and each one's `TXSTREAM` is the other's
`RXSTREAM`. Every move is a step of one of them, so an ill-formed `cfg` is refused (R5). -/

namespace Sys2Proof.Machine

/-- Two instances that face each other over the link. -/
structure Pair where
  near : State
  far : State
  deriving DecidableEq, Repr

/-- R205, R224: the two ends of one link have opposite roles and agree on `START` and on the nine command ids. -/
def Pair.joined (q : Pair) : Bool :=
  decide (q.near.cfg.role ≠ q.far.cfg.role) && decide (q.near.cfg.start = q.far.cfg.start) &&
    decide (q.near.cfg.ids = q.far.cfg.ids)

/-- Both ends after their `RESET` (R205), `near` the connectivity unit and `far` the display unit. -/
def Pair.reset : Pair where
  near := State.reset
  far := { State.reset with cfg := { Cfg.default with role := .display } }

/-- One step of one of the two instances, on its own pending events; the other is not touched (R117, R205). A byte that a
`TX_POP` hands over in such a step is lost: the other end was down (R205). -/
def Pair.stepOne (near : Bool) (q : Pair) : Host.Outcome Pair Fault Refusal :=
  if near then
    match step q.near with
    | .next s => .next { q with near := s }
    | .fault r => .fault r
    | .refused r => .refused r
  else
    match step q.far with
    | .next s => .next { q with far := s }
    | .fault r => .fault r
    | .refused r => .refused r

/-- The steps of the two instances interleaved by a schedule: true is a step of `near`. -/
def Pair.run : List Bool → Pair → Host.Outcome Pair Fault Refusal
  | [], q => .next q
  | b :: bs, q =>
    match q.stepOne b with
    | .next q' => Pair.run bs q'
    | .fault r => .fault r
    | .refused r => .refused r

/-- One byte from `tx` to `rx`: a `TX_POP` step of `tx`, and where it hands a byte over, the `RX_BYTE` step of `rx` with
that byte. The link neither loses nor delays it (log entry 20). -/
def crossByte (tx rx : State) : Host.Outcome (State × State) Fault Refusal :=
  match step (tx.presentEvent .txPop) with
  | .fault r => .fault r
  | .refused r => .refused r
  | .next s =>
    match s.out.wireByte with
    | none => .next (s, rx)
    | some b =>
      match step (rx.presentEvent (.rxByte b)) with
      | .next t => .next (s, t)
      | .fault r => .fault r
      | .refused r => .refused r

/-- R205: one byte crosses the link, from `near` to `far` or from `far` to `near`. -/
def Pair.transfer (fromNear : Bool) (q : Pair) : Host.Outcome Pair Fault Refusal :=
  if q.near.cfg.wf && q.far.cfg.wf then
    if q.joined then
      if fromNear then
        match crossByte q.near q.far with
        | .next r => .next { near := r.1, far := r.2 }
        | .fault r => .fault r
        | .refused r => .refused r
      else
        match crossByte q.far q.near with
        | .next r => .next { near := r.2, far := r.1 }
        | .fault r => .fault r
        | .refused r => .refused r
    else .refused .mismatchedPair
  else .refused .illFormedCfg

/-- Bytes cross the link one after another, in the directions given: true is from `near` to `far`. -/
def Pair.transfers : List Bool → Pair → Host.Outcome Pair Fault Refusal
  | [], q => .next q
  | d :: ds, q =>
    match q.transfer d with
    | .next q' => Pair.transfers ds q'
    | .fault r => .fault r
    | .refused r => .refused r

/-- The end the bytes of a direction come from. -/
def Pair.sender (fromNear : Bool) (q : Pair) : State := if fromNear then q.near else q.far

/-- The end the bytes of a direction go to. -/
def Pair.receiver (fromNear : Bool) (q : Pair) : State := if fromNear then q.far else q.near

end Sys2Proof.Machine
end

