-- ==== Sys2Proof/Safety.lean ====
section
/-! DEFINITION. What the spec says of every state between steps: the decoder's invariants (R15), the serializer's (R18),
the city register's (R19, R159), the stated ranges of the registers (10_state section 1), the canonical form of the byte
spaces; and when two states hold the same architectural state (10_state section 1: cells and registers that are not
architectural in a condition are left out). -/

namespace Sys2Proof.Machine

/-- R15, clauses 1 to 5. -/
abbrev State.DecoderInv (s : State) : Prop :=
  (s.rxFsm = .idle → s.rxN = 0 ∧ s.rxExpValid = false ∧ s.rxStall = 0) ∧
    (s.rxFsm = .accumulating → 1 ≤ s.rxN ∧ s.rxN ≤ 131 ∧ s.rxAcc.read 0 = s.cfg.start) ∧
    (s.rxExpValid = true ↔ s.rxFsm = .accumulating ∧ 4 ≤ s.rxN) ∧
    (s.rxExpValid = true →
      s.rxExp = s.rxAcc.read 2 ∧ 1 ≤ s.rxExp.toNat ∧ s.rxExp.toNat ≤ 128 ∧ 4 ≤ s.rxN ∧ s.rxN ≤ 3 + s.rxExp.toNat) ∧
    s.rxStall < s.cfg.stallLimit

/-- R18. -/
abbrev State.SerializerInv (s : State) : Prop :=
  s.txBusy = true →
    4 ≤ s.txN ∧ s.txN ≤ 132 ∧ s.txIdx < s.txN ∧ s.txBuf.read 0 = s.cfg.start ∧
      (s.txBuf.read 2).toNat = s.txN - 4 ∧ s.txBuf.read 3 = xor8 (s.txBuf.readBytes 4 (s.txN - 4))

/-- R19: `active_city[31]` is always 0x00; R159: in a `DISPLAY` instance `active_city` keeps `CITY_RESET` and
`force_refresh` stays 0. -/
abbrev State.CityInv (s : State) : Prop :=
  s.activeCity.read 31 = 0 ∧
    (s.cfg.role = .display → s.activeCity.readBytes 0 32 = s.cfg.cityReset ∧ s.forceRefresh = false)

/-- The byte spaces are in canonical form and list no offset that does not exist (R40). -/
abbrev State.MemoryInv (s : State) : Prop :=
  (s.rxAcc.wf = true ∧ s.rxAcc.within 132 = true) ∧ (s.txBuf.wf = true ∧ s.txBuf.within 132 = true) ∧
    (s.activeCity.wf = true ∧ s.activeCity.within 32 = true)

/-- The registers held as counts fit their widths (10_state section 1): 8, 16, 8 and 8 bits. -/
abbrev State.WidthInv (s : State) : Prop := s.rxN < 2 ^ 8 ∧ s.rxStall < 2 ^ 16 ∧ s.txN < 2 ^ 8 ∧ s.txIdx < 2 ^ 8

/-- What holds between any two steps of a block with a well-formed `cfg`. -/
structure State.Inv (s : State) : Prop where
  cfg : s.cfg.wf = true
  decoder : s.DecoderInv
  serializer : s.SerializerInv
  city : s.CityInv
  memory : s.MemoryInv
  width : s.WidthInv

/-- Two states hold the same architectural state and face the same inputs: they may differ only in `rx_acc` at and beyond
`rx_n`, in `rx_exp` when it is not valid, in the pending frame when `tx_busy` = 0, in `tx_buf` at and beyond `tx_n`
(10_state section 1, 93 U4), and in the output record of the step before. -/
structure State.SameArch (s t : State) : Prop where
  cfg : s.cfg = t.cfg
  env : s.env = t.env
  inputs : s.inputs = t.inputs
  rxFsm : s.rxFsm = t.rxFsm
  rxN : s.rxN = t.rxN
  rxExpValid : s.rxExpValid = t.rxExpValid
  rxExp : s.rxExpValid = true → s.rxExp = t.rxExp
  rxAcc : ∀ a, a < s.rxN → s.rxAcc.read a = t.rxAcc.read a
  rxStall : s.rxStall = t.rxStall
  txBusy : s.txBusy = t.txBusy
  txN : s.txBusy = true → s.txN = t.txN
  txIdx : s.txBusy = true → s.txIdx = t.txIdx
  txBuf : s.txBusy = true → ∀ a, a < s.txN → s.txBuf.read a = t.txBuf.read a
  activeCity : ∀ a, a < 32 → s.activeCity.read a = t.activeCity.read a
  forceRefresh : s.forceRefresh = t.forceRefresh
  cnt : s.cnt = t.cnt

/-- A safe step: it answers a next state, neither a fault nor a refusal (R7, R202). -/
abbrev State.StepsSafely (s : State) : Prop := ∃ t, step s = .next t

end Sys2Proof.Machine
end

