-- ==== Sys2Proof/Certificates/Slice0/Obligations.lean ====
section
/-! DEFINITION. The statements of this row, from the numbered rules of spec/. `Sys2Proof.Spec` holds the few words they
share. Every statement holds for every `cfg` unless it says so: `cfg` is a field of the state. A statement that a frame row
or an event row ends in a given next state gives that state whole, so that it says at once what the instruction writes and
that it writes nothing else. -/

namespace Sys2Proof.Spec

open Sys2Proof.Machine

/-- R130: the bytes `[START, cmd, |payload|, xor8(payload)] ++ payload`. -/
def wire (c : Cfg) (cmd : Byte) (p : List Byte) : List Byte :=
  [c.start, cmd, BitVec.ofNat 8 p.length, xor8 p] ++ p

/-- R81: the five conditions of a valid frame. -/
def Valid (c : Cfg) (f : List Byte) : Prop :=
  4 ≤ f.length ∧ f.getD 0 0 = c.start ∧ (f.getD 2 0).toNat ≤ 128 ∧ f.length = 4 + (f.getD 2 0).toNat ∧
    f.getD 3 0 = xor8 (f.drop 4)

/-- R24: the route output of a frame. -/
def routed (r : Route) (cmd : Byte) (p : List Byte) : Option RouteOut := some ⟨r, cmd, BitVec.ofNat 8 p.length, p⟩

/-- R162: the status record. -/
def record (c : Cfg) (e : Env) : List Byte :=
  [if e.linkUp then c.flagTrue else 0, if e.weatherValid then c.flagTrue else 0, if e.timeSynced then c.flagTrue else 0,
    e.batteryPct, BitVec.ofNat 8 e.uptimeS.toNat, BitVec.ofNat 8 (e.uptimeS.toNat / 2 ^ 8),
    BitVec.ofNat 8 (e.uptimeS.toNat / 2 ^ 16), BitVec.ofNat 8 (e.uptimeS.toNat / 2 ^ 24)]

/-- R6: an event's place in the order of one cycle. -/
def rank : Event → Nat
  | .reset => 0
  | .rxByte _ => 1
  | .rxTick => 2
  | .txAbort => 3
  | .txPop => 4
  | .txReq _ _ => 5
  | .forceRefreshClr => 6

/-- The decoder's registers are the same in both states (R10 to R14), and every byte of the accumulator reads alike. -/
def SameReceiver (s t : State) : Prop :=
  t.rxFsm = s.rxFsm ∧ t.rxN = s.rxN ∧ t.rxExpValid = s.rxExpValid ∧ t.rxExp = s.rxExp ∧ t.rxStall = s.rxStall ∧
    ∀ a, t.rxAcc.read a = s.rxAcc.read a

/-- The serializer's registers are the same in both states (R16, R17), and every byte of the buffer reads alike. -/
def SameSerializer (s t : State) : Prop :=
  t.txBusy = s.txBusy ∧ t.txN = s.txN ∧ t.txIdx = s.txIdx ∧ ∀ a, t.txBuf.read a = s.txBuf.read a

/-- The dispatcher's registers are the same in both states (R19, R20), and every byte of the city register reads
alike. -/
def SameCity (s t : State) : Prop :=
  t.forceRefresh = s.forceRefresh ∧ ∀ a, t.activeCity.read a = s.activeCity.read a

/-- The parameters and the inputs of the block are the same in both states. -/
def SameInputs (s t : State) : Prop := t.cfg = s.cfg ∧ t.env = s.env ∧ t.inputs = s.inputs

/-- The five counters of the decoder (R21, index 0 to 4). -/
def SameRxCounters (s t : State) : Prop :=
  t.cnt.rxAccept = s.cnt.rxAccept ∧ t.cnt.rxStray = s.cnt.rxStray ∧ t.cnt.rxBadLen = s.cnt.rxBadLen ∧
    t.cnt.rxBadCks = s.cnt.rxBadCks ∧ t.cnt.rxTimeout = s.cnt.rxTimeout

/-- The three counters of the dispatcher (R21, index 5 to 7). -/
def SameDspCounters (s t : State) : Prop :=
  t.cnt.dspUnknown = s.cnt.dspUnknown ∧ t.cnt.dspUnimpl = s.cnt.dspUnimpl ∧ t.cnt.dspBadPayload = s.cnt.dspBadPayload

/-- The sum of the dispatcher's three counters. -/
def dspSum (s : State) : Nat := s.cnt.dspUnknown.toNat + s.cnt.dspUnimpl.toNat + s.cnt.dspBadPayload.toNat

/-- The step reports the acceptance of a frame. -/
def Accepts (o : Out) : Prop := ∃ f, o.rxEv = some (.accepted f)

/-- The step reports a discard. -/
def Discards (o : Out) : Prop := ∃ c, o.rxEv = some (.discarded c)

/-- The step submits a reply. -/
def Submits (o : Out) : Prop := ∃ cmd p, o.reply = some (.submitted cmd p)

end Sys2Proof.Spec

open Sys2Proof Sys2Proof.Machine Sys2Proof.Spec

/-! ### Checksum, frame format, encoder and decoder -/

/-- R90: the fold from 0x00, its corner cases and its worked example. -/
def Obligations.Xor8IsTheXorFold : Prop :=
  xor8 [] = 0 ∧ (∀ (p : List Byte) (b : Byte), xor8 (p ++ [b]) = xor8 p ^^^ b) ∧ (∀ b : Byte, xor8 [b] = b) ∧
    (∀ b : Byte, xor8 [b, b] = 0) ∧ (∀ n, xor8 (List.replicate n 0) = 0) ∧ xor8 [0x41, 0x42, 0x43] = 0x40

/-- R94 (b), (c) (the spec's own inference: it marks R94 as derived): validation fails exactly when some bit position
is flipped an odd number of times over the payload and the checksum byte together; so any single bit-flip makes it
fail. -/
def Obligations.OddBitFlipsAreDetected : Prop :=
  (∀ (p p' : List Byte) (c c' : Byte), p.length = p'.length → verify p c = true →
      (verify p' c' = false ↔
        ∃ k, k < 8 ∧
          (List.zipWith (fun a b => a ^^^ b) (p ++ [c]) (p' ++ [c'])).countP (fun e => e.getLsbD k) % 2 = 1)) ∧
    ∀ (p : List Byte) (c : Byte) (i k : Nat), i < p.length → k < 8 → verify p c = true →
      verify (p.set i (p.getD i 0 ^^^ (1#8 <<< k))) c = false ∧ verify p (c ^^^ (1#8 <<< k)) = false

/-- R95 (a), (b), (c) (the spec's own inference: it marks R95 as derived): what the checksum does not detect. -/
def Obligations.CancellingChangesAreUndetected : Prop :=
  (∀ (p : List Byte) (i j : Nat) (e : Byte), i < p.length → j < p.length → i ≠ j →
      xor8 ((p.set i (p.getD i 0 ^^^ e)).set j (p.getD j 0 ^^^ e)) = xor8 p) ∧
    (∀ (p : List Byte) (i : Nat) (c e : Byte), i < p.length →
      verify (p.set i (p.getD i 0 ^^^ e)) (c ^^^ e) = verify p c) ∧
    (∀ p q : List Byte, p.Perm q → xor8 p = xor8 q) ∧
    (∀ p q : List Byte, xor8 (p ++ 0 :: q) = xor8 (p ++ q)) ∧
    ∀ (p q r : List Byte) (b : Byte), xor8 (p ++ b :: (q ++ b :: r)) = xor8 (p ++ (q ++ r))

/-- R141 (the spec's own inference: it marks R141 as derived), with R81's conditions and R130's image written out: the
encoder's results are valid frames, every valid frame is the image of its own command and payload, and the model's
validity predicate is R81's. -/
def Obligations.ValidFramesAreExactlyTheImages : Prop :=
  (∀ (c : Cfg) (cmd : Byte) (p : List Byte), p.length ≤ 128 →
      encodeFrame c cmd p = some (wire c cmd p) ∧ (wire c cmd p).length = 4 + p.length ∧ Valid c (wire c cmd p)) ∧
    (∀ (c : Cfg) (f : List Byte), Valid c f ↔ encodeFrame c (f.getD 1 0) (f.drop 4) = some f) ∧
    ∀ (c : Cfg) (f : List Byte), validFrame c f = true ↔ Valid c f

/-- R131 and 93 U3: the row `ENCODE` is refused for more than 128 payload bytes. -/
def Obligations.EncodeIsRefusedOutsideItsDomain : Prop :=
  ∀ (s : State) (cmd : Byte) (p : List Byte), 128 < p.length →
    exec (.encode cmd p) s = .refused .encodeOutsideDomain

/-- R90, R130: the function rows answer their result and write no state. That the result stands in the output record
is the model's choice (log entry 12). -/
def Obligations.FunctionRowsAnswerTheirResult : Prop :=
  (∀ (s : State) (p : List Byte),
      exec (.xor8 p) s = .next { s with out := { Out.silent with fn := some (.checksum (xor8 p)) } }) ∧
    ∀ (s : State) (cmd : Byte) (p : List Byte), p.length ≤ 128 →
      exec (.encode cmd p) s = .next { s with out := { Out.silent with fn := some (.image (wire s.cfg cmd p)) } }

/-- Decode and encode agree on every frame instruction, with every payload and every unknown command, whatever bytes
follow on the stream. -/
def Obligations.DecodeOfEncodeIsTheInstruction : Prop :=
  ∀ (c : Cfg) (i : Instr), c.wf = true → i.wf c = true → i.isFrame = true →
    ∃ bs, encode c i = some bs ∧ ∀ tail, decode c (bs ++ tail) = .ok (i, tail)

/-- The other direction: what the decoder accepts is a well-formed frame instruction, and the bytes it took are
exactly the instruction's image. -/
def Obligations.DecodeAcceptsOnlyImages : Prop :=
  ∀ (c : Cfg) (bs tail : List Byte) (i : Instr), decode c bs = .ok (i, tail) →
    i.isFrame = true ∧ i.wf c = true ∧ ∃ f, encode c i = some f ∧ bs = f ++ tail

/-- 30_encoding section 7: with the default ids the decoder gives the instruction of the first row, in file order,
whose mask and pattern match the header word. -/
def Obligations.DecodedRowIsTheFirstMatch : Prop :=
  ∀ (cmd : Byte) (p : List Byte), p.length ≤ 128 →
    (firstRow (headerWord Cfg.default.start cmd (BitVec.ofNat 8 p.length) (xor8 p))).map TableRow.mnemonic =
      some (selectRow Cfg.default cmd p).mnemonic

/-- Words of the spec (95 V20 to V24, V43, V75, V76) decode to the instructions they stand for. -/
def Obligations.WordsOfTheSpecDecode : Prop :=
  decode Cfg.default [0xAA, 0x06, 0x00, 0x00] = .ok (.systemStatusReq, []) ∧
    decode Cfg.default [0xAA, 0x06, 0x01, 0x77, 0x77] = .ok (.systemStatusReport [0x77], []) ∧
    decode Cfg.default [0xAA, 0x04, 0x06, 0x3E, 0x42, 0x65, 0x72, 0x6C, 0x69, 0x6E] =
      .ok (.setCity [0x42, 0x65, 0x72, 0x6C, 0x69, 0x6E], []) ∧
    decode Cfg.default [0xAA, 0x09, 0x02, 0x74, 0x45, 0x31] = .ok (.error [0x45, 0x31], []) ∧
    decode Cfg.default [0xAA, 0xFF, 0x00, 0x00] = .ok (.unknownCommand 0xFF [], []) ∧
    decode Cfg.default [0xAA, 0x01, 0x03, 0x05, 0x41, 0x42, 0x43] = .error .badChecksum ∧
    decode Cfg.default [0xAA, 0x04, 0x81, 0x00] = .error .badLength

/-! ### Steps -/

/-- R3: the step of a pending event is the meaning of that event, with the event consumed and its status inputs
sampled (the queue of pending events is the model's own, log entries 3 and 4). -/
def Obligations.StepRunsThePendingEvent : Prop :=
  ∀ (s : State) (e : Event) (env : Env) (rest : List Input), s.cfg.wf = true → s.inputs = ⟨e, env⟩ :: rest →
    step s = exec e.instr { s with inputs := rest, env := env }

/-- R5 (the spec's own inference: it marks R5 as derived): when a `cfg` is well-formed, and that a model refuses any
other, in a step of one instance and in a byte that crosses between two (log entry 10). The sizes R5 fixes are
constants of the model. -/
def Obligations.IllFormedCfgIsRefused : Prop :=
  (∀ c : Cfg, c.wf = true ↔
      [c.cmdGetWeather, c.cmdGetTime, c.cmdSetTime, c.cmdSetCity, c.cmdGetForecast, c.cmdSystemStatus, c.cmdAck,
          c.cmdNack, c.cmdError].Pairwise (· ≠ ·) ∧
        1 ≤ c.stallLimit ∧ c.stallLimit ≤ 65535 ∧ c.cityReset.length = 32 ∧ c.cityReset.getD 31 1 = 0) ∧
    Config.headerSize = 4 ∧ Config.maxPayload = 128 ∧ Config.maxFrame = 132 ∧ Config.accCap = 132 ∧
    Config.cityMax = 31 ∧ Config.cityBuf = 32 ∧ Config.statusLen = 8 ∧
    (∀ s : State, s.cfg.wf = false → step s = .refused .illFormedCfg) ∧
    ∀ (d : Bool) (q : Pair), (q.near.cfg.wf = false ∨ q.far.cfg.wf = false) → q.transfer d = .refused .illFormedCfg

/-- A table word placed for the next step is accepted and dispatched by that step: the step is the meaning of the
decoded instruction, in the state R109 leaves to the dispatcher (the placing is the model's own, log entry 14). -/
def Obligations.PlacedWordRunsItsInstruction : Prop :=
  ∀ (s : State) (nbits w : Nat) (i : Instr), s.cfg = Cfg.default → decodeTableWord nbits w = some i →
    ∃ (f : Frame) (acc : Memory) (exp : Byte), selectRow s.cfg f.command f.payload = i ∧
      step (s.withFetchWord nbits w) =
        exec i
          { s with
            rxFsm := .idle, rxN := 0, rxExpValid := false, rxExp := exp, rxAcc := acc, rxStall := 0,
            cnt := { s.cnt with rxAccept := s.cnt.rxAccept + 1 },
            out := { Out.silent with rxEv := some (.accepted f) } }

/-! ### The decoder -/

/-- R101. -/
def Obligations.StartByteBeginsAFrame : Prop :=
  ∀ (s : State) (b : Byte), s.rxFsm = .idle → b = s.cfg.start →
    exec (.rxByte b) s =
      .next
        { s with
          rxAcc := s.rxAcc.write 0 b, rxN := 1, rxExpValid := false, rxStall := 0, rxFsm := .accumulating,
          out := { Out.silent with rxEv := some .started } }

/-- R102. -/
def Obligations.StrayByteIsCountedAndDiscarded : Prop :=
  ∀ (s : State) (b : Byte), s.rxFsm = .idle → b ≠ s.cfg.start →
    exec (.rxByte b) s =
      .next
        { s with
          cnt := { s.cnt with rxStray := s.cnt.rxStray + 1 }, out := { Out.silent with rxEv := some (.stray b) } }

/-- R103, R104, R112: a byte of any value that does not end the frame is appended; the fourth byte latches the length. -/
def Obligations.ByteInsideAFrameIsStored : Prop :=
  ∀ (s : State) (b : Byte), s.rxFsm = .accumulating →
    (s.rxExpValid = false → s.rxN < 3 →
      exec (.rxByte b) s =
        .next
          { s with
            rxAcc := s.rxAcc.write s.rxN b, rxN := s.rxN + 1, rxStall := 0,
            out := { Out.silent with rxEv := some .stored } }) ∧
    (s.rxExpValid = false → 3 ≤ s.rxN → s.rxN ≤ 131 → (s.rxAcc.read 2).toNat ≤ 128 →
      s.rxN + 1 < 4 + (s.rxAcc.read 2).toNat →
      exec (.rxByte b) s =
        .next
          { s with
            rxAcc := s.rxAcc.write s.rxN b, rxN := s.rxN + 1, rxStall := 0, rxExp := s.rxAcc.read 2,
            rxExpValid := true, out := { Out.silent with rxEv := some .stored } }) ∧
    (s.rxExpValid = true → s.rxN ≤ 131 → s.rxN + 1 < 4 + s.rxExp.toNat →
      exec (.rxByte b) s =
        .next
          { s with
            rxAcc := s.rxAcc.write s.rxN b, rxN := s.rxN + 1, rxStall := 0,
            out := { Out.silent with rxEv := some .stored } })

/-- R105. -/
def Obligations.OversizedLengthIsRejectedAtTheFourthByte : Prop :=
  ∀ (s : State) (b : Byte), s.rxFsm = .accumulating → s.rxExpValid = false → 3 ≤ s.rxN → s.rxN ≤ 131 →
    128 < (s.rxAcc.read 2).toNat →
    exec (.rxByte b) s =
      .next
        { s with
          rxAcc := s.rxAcc.write s.rxN b, rxFsm := .idle, rxN := 0, rxExpValid := false, rxStall := 0,
          cnt := { s.cnt with rxBadLen := s.cnt.rxBadLen + 1 },
          out := { Out.silent with rxEv := some (.discarded .badLength) } }

/-- R106 to R111: the byte-by-byte decoder refines the frame format. In every state between steps that is collecting a
frame, the bytes collected and the byte that arrives are judged as `decode` judges them: a whole frame is accepted,
once, and the step is the meaning of the decoded instruction; a wrong checksum or an oversized length is discarded; an
incomplete frame is stored. -/
def Obligations.DecoderRefinesTheFrameFormat : Prop :=
  ∀ (s : State) (b : Byte), s.Inv → s.rxFsm = .accumulating →
    (∀ i tail, decode s.cfg (s.rxAcc.readBytes 0 s.rxN ++ [b]) = .ok (i, tail) →
      tail = [] ∧
        ∃ f : Frame, selectRow s.cfg f.command f.payload = i ∧
          s.rxAcc.readBytes 0 s.rxN ++ [b] = [s.cfg.start, f.command, f.length, f.checksum] ++ f.payload ∧
          exec (.rxByte b) s =
            exec i
              { s with
                rxAcc := s.rxAcc.write s.rxN b, rxExp := f.length, rxFsm := .idle, rxN := 0, rxExpValid := false,
                rxStall := 0, cnt := { s.cnt with rxAccept := s.cnt.rxAccept + 1 },
                out := { Out.silent with rxEv := some (.accepted f) } }) ∧
    (decode s.cfg (s.rxAcc.readBytes 0 s.rxN ++ [b]) = .error .badChecksum →
      ∃ exp, exec (.rxByte b) s =
        .next
          { s with
            rxAcc := s.rxAcc.write s.rxN b, rxExp := exp, rxFsm := .idle, rxN := 0, rxExpValid := false,
            rxStall := 0, cnt := { s.cnt with rxBadCks := s.cnt.rxBadCks + 1 },
            out := { Out.silent with rxEv := some (.discarded .badChecksum) } }) ∧
    (decode s.cfg (s.rxAcc.readBytes 0 s.rxN ++ [b]) = .error .badLength →
      ∃ exp, exec (.rxByte b) s =
        .next
          { s with
            rxAcc := s.rxAcc.write s.rxN b, rxExp := exp, rxFsm := .idle, rxN := 0, rxExpValid := false,
            rxStall := 0, cnt := { s.cnt with rxBadLen := s.cnt.rxBadLen + 1 },
            out := { Out.silent with rxEv := some (.discarded .badLength) } }) ∧
    (decode s.cfg (s.rxAcc.readBytes 0 s.rxN ++ [b]) = .error .truncated →
      ∃ exp valid, exec (.rxByte b) s =
        .next
          { s with
            rxAcc := s.rxAcc.write s.rxN b, rxExp := exp, rxExpValid := valid, rxN := s.rxN + 1, rxStall := 0,
            out := { Out.silent with rxEv := some .stored } }) ∧
    decode s.cfg (s.rxAcc.readBytes 0 s.rxN ++ [b]) ≠ .error .badStart

/-- R114. -/
def Obligations.TickBelowTheBoundOnlyCounts : Prop :=
  (∀ s : State, s.rxFsm = .idle → exec .rxTick s = .next { s with out := Out.silent }) ∧
    ∀ s : State, s.rxFsm = .accumulating → s.rxStall + 1 < s.cfg.stallLimit →
      exec .rxTick s = .next { s with rxStall := s.rxStall + 1, out := Out.silent }

/-- R115. -/
def Obligations.TickAtTheBoundDiscards : Prop :=
  ∀ s : State, s.rxFsm = .accumulating → s.cfg.stallLimit ≤ s.rxStall + 1 →
    exec .rxTick s =
      .next
        { s with
          rxFsm := .idle, rxN := 0, rxExpValid := false, rxStall := 0,
          cnt := { s.cnt with rxTimeout := s.cnt.rxTimeout + 1 },
          out := { Out.silent with rxEv := some (.discarded .timeout) } }

/-- R118, the round-trip law (the spec's own inference: it marks R118 as derived), over the steps of the machine: from
`Idle`, the bytes of `encode(c, p)` as consecutive `RX_BYTE` events give `STARTED`, `STORED` and one `ACCEPTED` of
that command and payload. -/
def Obligations.RoundTripThroughTheDecoder : Prop :=
  ∀ (s : State) (cmd : Byte) (p : List Byte) (env : Env) (rest : List Input), s.cfg.wf = true → s.rxFsm = .idle →
    p.length ≤ 128 → s.inputs = byteInputs (wire s.cfg cmd p) env ++ rest →
    ∃ os t, trace (4 + p.length) s = .next (os, t) ∧
      os.map Out.rxEv =
        some .started ::
          (List.replicate (2 + p.length) (some .stored) ++
            [some (.accepted ⟨cmd, BitVec.ofNat 8 p.length, xor8 p, p⟩)]) ∧
      t.rxFsm = .idle ∧ t.rxN = 0 ∧ t.inputs = rest ∧ t.cnt.rxAccept = s.cnt.rxAccept + 1 ∧
      t.cnt.rxStray = s.cnt.rxStray ∧ t.cnt.rxBadLen = s.cnt.rxBadLen ∧ t.cnt.rxBadCks = s.cnt.rxBadCks ∧
      t.cnt.rxTimeout = s.cnt.rxTimeout

/-- R120 (the spec's own inference: it marks R120 as derived): the only transitions of the decoder and of the
serializer, and the reports that go with them, over every event. -/
def Obligations.TransitionsAreExactlyThese : Prop :=
  ∀ (s t : State) (i : Input) (rest : List Input), s.inputs = i :: rest → step s = .next t →
    (s.rxFsm = .idle ∧ t.rxFsm = .accumulating ↔ t.out.rxEv = some .started) ∧
    (s.rxFsm = .accumulating ∧ t.rxFsm = .idle ↔
      Accepts t.out ∨ Discards t.out ∨ (i.event = .reset ∧ s.rxFsm = .accumulating)) ∧
    (s.rxFsm = .accumulating → t.rxFsm = .idle → t.rxN = 0 ∧ t.rxExpValid = false ∧ t.rxStall = 0) ∧
    (s.txBusy = false ∧ t.txBusy = true ↔ t.out.txEv = some .taken ∨ Submits t.out) ∧
    (s.txBusy = true ∧ t.txBusy = false ↔
      (∃ b, t.out.txEv = some (.byte b true)) ∨ t.out.txEv = some .aborted ∨ (i.event = .reset ∧ s.txBusy = true))

/-! ### The serializer -/

/-- R132. -/
def Obligations.RequestIsTaken : Prop :=
  ∀ (s : State) (cmd : Byte) (p : List Byte), p.length ≤ 128 → s.txBusy = false →
    exec (.txReq cmd p) s =
      .next
        { s with
          txBuf := s.txBuf.writeBytes 0 (wire s.cfg cmd p), txN := 4 + p.length, txIdx := 0, txBusy := true,
          out := { Out.silent with txEv := some .taken } } ∧
    (s.txBuf.writeBytes 0 (wire s.cfg cmd p)).readBytes 0 (4 + p.length) = wire s.cfg cmd p

/-- R133, R134: the length is tested first. -/
def Obligations.RequestIsRefused : Prop :=
  (∀ (s : State) (cmd : Byte) (p : List Byte), p.length ≤ 128 → s.txBusy = true →
      exec (.txReq cmd p) s =
        .next
          { s with
            cnt := { s.cnt with txSkip := s.cnt.txSkip + 1 },
            out := { Out.silent with txEv := some (.refused .txBusy) } }) ∧
    ∀ (s : State) (cmd : Byte) (p : List Byte), 128 < p.length →
      exec (.txReq cmd p) s =
        .next
          { s with
            cnt := { s.cnt with txBadLen := s.cnt.txBadLen + 1 },
            out := { Out.silent with txEv := some (.refused .txBadLength) } }

/-- R135, R136, R137. A pending byte lies inside the buffer of 132 bytes. -/
def Obligations.PopHandsOverTheNextByte : Prop :=
  (∀ s : State, s.txBusy = true → s.txIdx + 1 < s.txN → s.txIdx < 132 →
      exec .txPop s =
        .next
          { s with
            txIdx := s.txIdx + 1, out := { Out.silent with txEv := some (.byte (s.txBuf.read s.txIdx) false) } }) ∧
    (∀ s : State, s.txBusy = true → s.txIdx + 1 = s.txN → s.txIdx < 132 →
      exec .txPop s =
        .next
          { s with
            txBusy := false, cnt := { s.cnt with txFrames := s.cnt.txFrames + 1 },
            out := { Out.silent with txEv := some (.byte (s.txBuf.read s.txIdx) true) } }) ∧
    ∀ s : State, s.txBusy = false → exec .txPop s = .next { s with out := { Out.silent with txEv := some .empty } }

/-- R138. -/
def Obligations.AbortFreesTheSerializer : Prop :=
  (∀ s : State, s.txBusy = true →
      exec .txAbort s =
        .next
          { s with
            txBusy := false, cnt := { s.cnt with txAbort := s.cnt.txAbort + 1 },
            out := { Out.silent with txEv := some .aborted } }) ∧
    ∀ s : State, s.txBusy = false → exec .txAbort s = .next { s with out := Out.silent }

/-- R142 (the spec's own inference: it marks R142 as derived): after a taken request that is not aborted, the next 4 +
|payload| `TX_POP` steps hand over exactly `encode(cmd, payload)`, the last byte with `last = true`. -/
def Obligations.SerializerSendsExactlyTheImage : Prop :=
  ∀ (s : State) (cmd : Byte) (p : List Byte) (env : Env) (rest : List Input), s.cfg.wf = true → s.txBusy = false →
    p.length ≤ 128 →
    s.inputs = ⟨.txReq cmd p, env⟩ :: (List.replicate (4 + p.length) ⟨.txPop, env⟩ ++ rest) →
    ∃ os t, trace (5 + p.length) s = .next (os, t) ∧
      os.map Out.txEv =
        some .taken ::
          (List.range (4 + p.length)).map
            (fun k => some (.byte ((wire s.cfg cmd p).getD k 0) (decide (k = 3 + p.length)))) ∧
      txStream os = wire s.cfg cmd p ∧ t.txBusy = false ∧ t.cnt.txFrames = s.cnt.txFrames + 1 ∧ t.inputs = rest

/-- R140, and the model's choice of log entry 7: from the step after a frame is taken to the step that pops its last
byte or aborts it, no other frame is taken, and the bytes handed over are that frame's, in order (R140). That
`tx_buf`, `tx_n` and `tx_idx` keep their values also in the step that is the last pop, an abort or `RESET`, after
which they are not architectural, is the model's choice (log entry 7). -/
def Obligations.PendingFrameIsNotDisturbed : Prop :=
  ∀ s t : State, s.txBusy = true → step s = .next t →
    t.txBuf = s.txBuf ∧ t.txN = s.txN ∧ t.out.txEv ≠ some .taken ∧ ¬ Submits t.out ∧
      (∀ b last, t.out.txEv = some (.byte b last) →
        b = s.txBuf.read s.txIdx ∧ t.txIdx = (if last then s.txIdx else s.txIdx + 1)) ∧
      ((∀ b last, t.out.txEv ≠ some (.byte b last)) → t.txIdx = s.txIdx)

/-! ### The dispatcher -/

/-- R153, R154. The reply of R153 is offered in the step: submitted when the serializer is idle, skipped when it is
busy. -/
def Obligations.WeatherFrameByRole : Prop :=
  (∀ (s : State) (p : List Byte), s.cfg.role = .connectivity → s.txBusy = false →
      exec (.getWeather p) s =
        .next
          { s with
            txBuf := s.txBuf.writeBytes 0 [s.cfg.start, s.cfg.cmdAck, 0, 0], txN := 4, txIdx := 0, txBusy := true,
            out :=
              { s.out with
                route := routed .weatherFetch s.cfg.cmdGetWeather p, reply := some (.submitted s.cfg.cmdAck []) } }) ∧
    (∀ (s : State) (p : List Byte), s.cfg.role = .connectivity → s.txBusy = true →
      exec (.getWeather p) s =
        .next
          { s with
            cnt := { s.cnt with txSkip := s.cnt.txSkip + 1 },
            out :=
              { s.out with
                route := routed .weatherFetch s.cfg.cmdGetWeather p, reply := some (.skipped s.cfg.cmdAck []) } }) ∧
    ∀ (s : State) (p : List Byte), s.cfg.role = .display →
      exec (.getWeather p) s =
        .next { s with out := { s.out with route := routed .weatherData s.cfg.cmdGetWeather p, reply := none } }

/-- R169: a reply offered to a busy serializer is not sent, not queued and counted once; everything else the frame
does is what it does when the serializer is idle. -/
def Obligations.ReplyIsSkippedWhenBusy : Prop :=
  ∀ (i : Instr) (s : State), i.isFrame = true → s.txBusy = true →
    ∃ t u, exec i s = .next t ∧ exec i { s with txBusy := false } = .next u ∧ SameSerializer s t ∧
      (∀ cmd p, t.out.reply = some (.skipped cmd p) ↔ u.out.reply = some (.submitted cmd p)) ∧
      ((∃ cmd p, t.out.reply = some (.skipped cmd p)) → t.cnt = { u.cnt with txSkip := u.cnt.txSkip + 1 }) ∧
      ((∀ cmd p, t.out.reply ≠ some (.skipped cmd p)) → t.out.reply = none ∧ t.cnt = u.cnt) ∧
      t.out.route = u.out.route ∧ t.activeCity = u.activeCity ∧ t.forceRefresh = u.forceRefresh

/-- R155, R156, R160. -/
def Obligations.UnwiredCommandsAreUnimplemented : Prop :=
  ∀ (s : State) (p : List Byte),
    exec (.getTime p) s =
      .next
        { s with
          cnt := { s.cnt with dspUnimpl := s.cnt.dspUnimpl + 1 },
          out := { s.out with route := routed .unimplemented s.cfg.cmdGetTime p, reply := none } } ∧
    exec (.setTime p) s =
      .next
        { s with
          cnt := { s.cnt with dspUnimpl := s.cnt.dspUnimpl + 1 },
          out := { s.out with route := routed .unimplemented s.cfg.cmdSetTime p, reply := none } } ∧
    exec (.getForecast p) s =
      .next
        { s with
          cnt := { s.cnt with dspUnimpl := s.cnt.dspUnimpl + 1 },
          out := { s.out with route := routed .unimplemented s.cfg.cmdGetForecast p, reply := none } }

/-- R157: the city register is written whole, NUL-padded, and the flag is set in the same step. -/
def Obligations.SetCityStoresTheString : Prop :=
  ∀ (s : State) (p : List Byte), s.cfg.role = .connectivity → p.length ≤ 31 →
    exec (.setCity p) s =
      .next
        { s with
          activeCity := s.activeCity.writeBytes 0 (p ++ List.replicate (32 - p.length) 0), forceRefresh := true,
          out := { s.out with route := routed .citySet s.cfg.cmdSetCity p, reply := none } } ∧
    ∀ k, k < 32 →
      (s.activeCity.writeBytes 0 (p ++ List.replicate (32 - p.length) 0)).read k = if k < p.length then p.getD k 0 else 0

/-- R158; and what R159 gives for one such frame in a `DISPLAY` instance: the role is tested before the length. -/
def Obligations.SetCityIsDropped : Prop :=
  (∀ (s : State) (p : List Byte), s.cfg.role = .connectivity → 32 ≤ p.length →
      exec (.setCity p) s =
        .next
          { s with
            cnt := { s.cnt with dspBadPayload := s.cnt.dspBadPayload + 1 },
            out := { s.out with route := routed .badPayload s.cfg.cmdSetCity p, reply := none } }) ∧
    ∀ (s : State) (p : List Byte), s.cfg.role = .display →
      exec (.setCity p) s =
        .next
          { s with
            cnt := { s.cnt with dspUnimpl := s.cnt.dspUnimpl + 1 },
            out := { s.out with route := routed .unimplemented s.cfg.cmdSetCity p, reply := none } }

/-- R161, R162: the record is built from the status inputs of the step; the reply is submitted when the serializer is
idle, skipped when it is busy. -/
def Obligations.StatusRequestIsAnswered : Prop :=
  (∀ s : State, s.txBusy = false →
      exec .systemStatusReq s =
        .next
          { s with
            txBuf := s.txBuf.writeBytes 0 (wire s.cfg s.cfg.cmdSystemStatus (record s.cfg s.env)), txN := 12, txIdx := 0,
            txBusy := true,
            out :=
              { s.out with
                route := routed .statusReq s.cfg.cmdSystemStatus [],
                reply := some (.submitted s.cfg.cmdSystemStatus (record s.cfg s.env)) } }) ∧
    ∀ s : State, s.txBusy = true →
      exec .systemStatusReq s =
        .next
          { s with
            cnt := { s.cnt with txSkip := s.cnt.txSkip + 1 },
            out :=
              { s.out with
                route := routed .statusReq s.cfg.cmdSystemStatus [],
                reply := some (.skipped s.cfg.cmdSystemStatus (record s.cfg s.env)) } }

/-- R163, R164, R165, R166: forwarded, no reply, no state change, no counter. -/
def Obligations.TerminalFramesAreOnlyRouted : Prop :=
  ∀ (s : State) (p : List Byte),
    exec (.systemStatusReport p) s =
      .next { s with out := { s.out with route := routed .statusReport s.cfg.cmdSystemStatus p, reply := none } } ∧
    exec (.ack p) s = .next { s with out := { s.out with route := routed .ack s.cfg.cmdAck p, reply := none } } ∧
    exec (.nack p) s = .next { s with out := { s.out with route := routed .nack s.cfg.cmdNack p, reply := none } } ∧
    exec (.error p) s = .next { s with out := { s.out with route := routed .error s.cfg.cmdError p, reply := none } }

/-- R167. -/
def Obligations.UnknownCommandIsDropped : Prop :=
  ∀ (s : State) (cmd : Byte) (p : List Byte),
    exec (.unknownCommand cmd p) s =
      .next
        { s with
          cnt := { s.cnt with dspUnknown := s.cnt.dspUnknown + 1 },
          out := { s.out with route := routed .unknown cmd p, reply := none } }

/-- R150, R172: a step that accepts a frame sets exactly one route, with the frame's command, length and payload as
received; no other step sets a route, and no step that sets none replies. -/
def Obligations.EveryAcceptedFrameHasOneRoute : Prop :=
  ∀ s t : State, step s = .next t →
    (∀ f, t.out.rxEv = some (.accepted f) → ∃ r, t.out.route = some ⟨r, f.command, f.length, f.payload⟩) ∧
      (t.out.route ≠ none → Accepts t.out) ∧ (t.out.reply ≠ none → Accepts t.out)

/-- R235 (the spec's own inference: it marks R235 as derived): no reply of the block is answered by the block that
receives it, under the same command ids. -/
def Obligations.RepliesAreNotAnswered : Prop :=
  ∀ (s t u : State) (i : Instr) (cmd : Byte) (p : List Byte), i.isFrame = true → exec i s = .next t →
    t.out.reply = some (.submitted cmd p) → u.cfg.wf = true → u.cfg.ids = s.cfg.ids →
    ∃ v, exec (selectRow u.cfg cmd p) u = .next v ∧ v.out.reply = none

/-- R173: every frame, whatever its payload, is dispatched in its step, with one route, and the decoder is not
touched. -/
def Obligations.DispatchNeverFails : Prop :=
  ∀ (i : Instr) (s : State), i.isFrame = true →
    ∃ t, exec i s = .next t ∧ t.out.route ≠ none ∧ SameReceiver s t

/-! ### Reset and the clear -/

/-- R220: the values `RESET` leaves, in every state, and that it is idempotent. -/
def Obligations.ResetLeavesTheResetValues : Prop :=
  ∀ s : State, s.cfg.wf = true →
    ∃ t, exec .reset s = .next t ∧ t.rxFsm = .idle ∧ t.rxN = 0 ∧ t.rxExpValid = false ∧ t.rxStall = 0 ∧
      t.txBusy = false ∧ t.activeCity.readBytes 0 32 = s.cfg.cityReset ∧ t.forceRefresh = false ∧
      t.cnt = ⟨0, 0, 0, 0, 0, 0, 0, 0, 0, 0, 0, 0⟩ ∧ t.out = Out.silent ∧ SameInputs s t ∧ exec .reset t = .next t

/-- R171: what the event does. That a second one changes nothing is R49's sentence, "`FORCE_REFRESH_CLR` and `RESET`
are idempotent", the spec's own inference: it marks R49 as derived. -/
def Obligations.ClearForceRefresh : Prop :=
  ∀ s : State,
    exec .forceRefreshClr s = .next { s with forceRefresh := false, out := Out.silent } ∧
      exec .forceRefreshClr { s with forceRefresh := false, out := Out.silent } =
        .next { s with forceRefresh := false, out := Out.silent }

/-! ### The whole machine -/

/-- The reset state meets R15, R18, R19, the stated ranges and the canonical form; its parameters are the model's
choice where R4 gives no default (log entry 2). -/
def Obligations.ResetStateMeetsTheInvariant : Prop := State.reset.Inv

/-- R15, R18 (the spec's own inference: it marks R15 and R18 as derived), R19, R159, the stated ranges of 10_state
section 1 and the canonical form of the byte spaces: every step of every event keeps them. -/
def Obligations.StepKeepsTheInvariant : Prop := ∀ s t : State, s.Inv → step s = .next t → t.Inv

/-- R202 (and R7, every event is accepted in every state): from every state between steps, whatever events and status
inputs are pending, no step faults or is refused, however many are taken, and the block is then in such a state again. -/
def Obligations.NoRunStops : Prop := ∀ (s : State) (n : Nat), s.Inv → ∃ t : State, Host.Core.run core n s = .next t ∧ t.Inv

/-- The model's faults, all outside R15 and R18, where no rule of the spec applies (the model's choice, log entry 9):
an append, a payload read or a pop past the end of its buffer, and a pop past the end of the pending frame. -/
def Obligations.ImpossibleOffsetsFault : Prop :=
  (∀ (s : State) (b : Byte), s.rxFsm = .accumulating → 132 ≤ s.rxN → exec (.rxByte b) s = .fault .noSuchOffset) ∧
    (∀ (s : State) (b : Byte), s.rxFsm = .accumulating → s.rxN ≤ 131 → s.rxExpValid = true →
      4 + s.rxExp.toNat ≤ s.rxN + 1 → 128 < ((s.rxAcc.write s.rxN b).read 2).toNat →
      exec (.rxByte b) s = .fault .noSuchOffset) ∧
    (∀ s : State, s.txBusy = true → 132 ≤ s.txIdx → exec .txPop s = .fault .noSuchOffset) ∧
    ∀ s : State, s.txBusy = true → s.txIdx < 132 → s.txN ≤ s.txIdx → exec .txPop s = .fault .popBeyondFrame

/-- 10_state section 1, 93 U4: no output and no architectural state depends on what is not architectural. -/
def Obligations.NonArchitecturalContentsAreUnobservable : Prop :=
  ∀ s t s' : State, s.Inv → t.Inv → s.SameArch t → step s = .next s' →
    ∃ t', step t = .next t' ∧ s'.SameArch t' ∧ s'.out = t'.out

/-- R22: no rule reads a counter. -/
def Obligations.CountersInfluenceNothing : Prop :=
  ∀ (s s' : State) (c : Counters), step s = .next s' →
    ∃ t', step { s with cnt := c } = .next t' ∧ { t' with cnt := s'.cnt } = s'

/-- R4, R57, R52: no event changes the parameters, and each event is delivered once, in order. -/
def Obligations.ConfigurationIsConstant : Prop :=
  ∀ s t : State, step s = .next t → t.cfg = s.cfg ∧ t.inputs = s.inputs.tail

/-- R54 (the spec's own inference: it marks R54 as derived), R30: a transmit event never changes decoder or dispatcher
state. -/
def Obligations.TransmitEventsLeaveTheReceiver : Prop :=
  ∀ (i : Instr) (s t : State), ((∃ cmd p, i = .txReq cmd p) ∨ i = .txPop ∨ i = .txAbort) → exec i s = .next t →
    SameReceiver s t ∧ SameCity s t ∧ SameInputs s t ∧ SameRxCounters s t ∧ SameDspCounters s t ∧
      t.out.rxEv = none ∧ t.out.route = none ∧ t.out.reply = none

/-- R54 (the spec's own inference: it marks R54 as derived), R139: a receive event changes the serializer only by a
reply submitted while it is idle. -/
def Obligations.ReceiveEventsReachTheSerializerByReply : Prop :=
  ∀ (i : Instr) (s t : State), ((∃ b, i = .rxByte b) ∨ i = .rxTick) → exec i s = .next t →
    (¬ Submits t.out → SameSerializer s t) ∧
      (∀ cmd p, t.out.reply = some (.submitted cmd p) →
        s.txBusy = false ∧ t.txBusy = true ∧ t.txIdx = 0 ∧ t.txN = 4 + p.length ∧
          t.txBuf.readBytes 0 (4 + p.length) = wire s.cfg cmd p ∧
          ∀ a, 4 + p.length ≤ a → t.txBuf.read a = s.txBuf.read a)

/-- R54 (the spec's own inference: it marks R54 as derived): a receive event that offers no reply and a transmit event
commute. -/
def Obligations.ReceiveAndTransmitCommute : Prop :=
  ∀ (i j : Instr) (s a ab : State), ((∃ b, i = .rxByte b) ∨ i = .rxTick) →
    ((∃ cmd p, j = .txReq cmd p) ∨ j = .txPop ∨ j = .txAbort) → exec i s = .next a → a.out.reply = none →
    exec j a = .next ab →
    ∃ b ba, exec j s = .next b ∧ exec i b = .next ba ∧ b.out = ab.out ∧ ba.out = a.out ∧
      { ba with out := ab.out } = ab

/-- R19, R20, R48, R157: only the set-city route and `RESET` write the city register or set the flag, and the route
does both in its step. -/
def Obligations.OnlySetCityWritesTheCity : Prop :=
  ∀ s t : State, step s = .next t →
    (t.activeCity ≠ s.activeCity ∨ (s.forceRefresh = false ∧ t.forceRefresh = true) →
      (∃ env rest, s.inputs = ⟨.reset, env⟩ :: rest) ∨ ∃ cmd len p, t.out.route = some ⟨.citySet, cmd, len, p⟩) ∧
    ∀ cmd len p, t.out.route = some ⟨.citySet, cmd, len, p⟩ →
      s.cfg.role = .connectivity ∧ cmd = s.cfg.cmdSetCity ∧ p.length ≤ 31 ∧ t.forceRefresh = true ∧
        t.activeCity.readBytes 0 32 = p ++ List.replicate (32 - p.length) 0

/-- R206 (the spec's own inference: it marks R206 as derived): the accept counter counts the `ACCEPTED` reports, and
before any wrap the three drop counters together never exceed it. -/
def Obligations.CountersCountTheReports : Prop :=
  ∀ (s t : State) (i : Input) (rest : List Input), s.inputs = i :: rest → step s = .next t →
    (i.event ≠ .reset →
      (Accepts t.out → t.cnt.rxAccept = s.cnt.rxAccept + 1) ∧ (¬ Accepts t.out → t.cnt.rxAccept = s.cnt.rxAccept)) ∧
    (dspSum s ≤ s.cnt.rxAccept.toNat → s.cnt.rxAccept.toNat + 1 < 2 ^ 32 → dspSum t ≤ t.cnt.rxAccept.toNat)

/-- R6: the order of the events of one clock cycle, and that `RESET` cancels the others. -/
def Obligations.SameCycleOrder : Prop :=
  ∀ c : CycleEvents,
    (c.reset = true → c.ordered = [.reset]) ∧
    (c.reset = false →
      c.ordered.Pairwise (fun d e => rank d < rank e) ∧
        ∀ e, e ∈ c.ordered ↔
          (∃ b, c.rxByte = some b ∧ e = .rxByte b) ∨ (c.rxTick = true ∧ e = .rxTick) ∨
          (c.txAbort = true ∧ e = .txAbort) ∨ (c.txPop = true ∧ e = .txPop) ∨
          (∃ r, c.txReq = some r ∧ e = .txReq r.1 r.2) ∨ (c.forceRefreshClr = true ∧ e = .forceRefreshClr))

/-- R197 (the spec's own inference: it marks R197 as derived): a byte and a tick in one cycle leave the stall counter
at 1; a byte that wins a reply and a `TX_REQ` refuse the request; the pop of a last byte and a `TX_REQ` let the
request be taken. -/
def Obligations.SameCycleConsequences : Prop :=
  (∀ (s t : State) (c : CycleEvents) (b : Byte) (env : Env) (os : List Out), s.inputs = [] →
      c = ⟨false, some b, true, false, false, none, false⟩ → trace 2 (s.addCycle c env) = .next (os, t) →
      os.map Out.rxEv = [some .stored, none] → t.rxStall = 1) ∧
    (∀ (s t : State) (c : CycleEvents) (b : Byte) (r : Byte × List Byte) (env : Env) (os : List Out) (rep : ReplyOut),
      s.inputs = [] → c = ⟨false, some b, false, false, false, some r, false⟩ → s.txBusy = false → r.2.length ≤ 128 →
      trace 2 (s.addCycle c env) = .next (os, t) → (os.head?.bind Out.reply) = some rep →
      os.map Out.txEv = [none, some (.refused .txBusy)]) ∧
    ∀ (s : State) (c : CycleEvents) (r : Byte × List Byte) (env : Env), s.cfg.wf = true → s.inputs = [] →
      c = ⟨false, none, false, false, true, some r, false⟩ → s.txBusy = true → s.txIdx + 1 = s.txN → s.txIdx < 132 →
      r.2.length ≤ 128 →
      ∃ os t, trace 2 (s.addCycle c env) = .next (os, t) ∧
        os.map Out.txEv = [some (.byte (s.txBuf.read s.txIdx) true), some .taken]

/-- R117: two instances whose steps are interleaved in any way each end where they end alone. -/
def Obligations.InterleavedInstancesAreIndependent : Prop :=
  ∀ (sched : List Bool) (q q' : Pair),
    Pair.run sched q = .next q' ↔
      Host.Core.run core (sched.count true) q.near = .next q'.near ∧
        Host.Core.run core (sched.count false) q.far = .next q'.far

/-- R205 with R118 and R142 (the last two are the spec's own inferences, marked derived), and the exchange of 95 P6:
the two ends of a link have opposite roles and agree on `START` and the ids, and no byte crosses between others (log
entry 23); between ends so joined, in either direction, a pending frame crosses byte by byte and is accepted whole at
the other end, which must be idle; and a status request is answered over the link in the other direction. That the
link loses nothing and delays nothing is the model's choice (log entry 20). -/
def Obligations.LinkCarriesAWholeFrame : Prop :=
  (∀ q : Pair, q.joined = true ↔
      q.near.cfg.role ≠ q.far.cfg.role ∧ q.near.cfg.start = q.far.cfg.start ∧
        [q.near.cfg.cmdGetWeather, q.near.cfg.cmdGetTime, q.near.cfg.cmdSetTime, q.near.cfg.cmdSetCity,
            q.near.cfg.cmdGetForecast, q.near.cfg.cmdSystemStatus, q.near.cfg.cmdAck, q.near.cfg.cmdNack,
            q.near.cfg.cmdError] =
          [q.far.cfg.cmdGetWeather, q.far.cfg.cmdGetTime, q.far.cfg.cmdSetTime, q.far.cfg.cmdSetCity,
            q.far.cfg.cmdGetForecast, q.far.cfg.cmdSystemStatus, q.far.cfg.cmdAck, q.far.cfg.cmdNack,
            q.far.cfg.cmdError]) ∧
    (∀ (d : Bool) (q : Pair), q.near.cfg.wf = true → q.far.cfg.wf = true → q.joined = false →
      q.transfer d = .refused .mismatchedPair) ∧
    (∀ (d : Bool) (q : Pair) (cmd : Byte) (p : List Byte), q.near.cfg.wf = true → q.far.cfg.wf = true →
      q.joined = true → p.length ≤ 128 → (q.sender d).txBusy = true → (q.sender d).txIdx = 0 →
      (q.sender d).txN = 4 + p.length →
      (q.sender d).txBuf.readBytes 0 (4 + p.length) = wire (q.sender d).cfg cmd p → (q.receiver d).rxFsm = .idle →
      ∃ q', Pair.transfers (List.replicate (4 + p.length) d) q = .next q' ∧
        (q'.receiver d).out.rxEv = some (.accepted ⟨cmd, BitVec.ofNat 8 p.length, xor8 p, p⟩) ∧
        (q'.receiver d).rxFsm = .idle ∧ (q'.receiver d).cnt.rxAccept = (q.receiver d).cnt.rxAccept + 1 ∧
        (q'.sender d).txBusy = false ∧ (q'.sender d).cnt.txFrames = (q.sender d).cnt.txFrames + 1 ∧
        SameReceiver (q.sender d) (q'.sender d)) ∧
    ∀ (d : Bool) (q : Pair), q.near.cfg.wf = true → q.far.cfg.wf = true → q.joined = true →
      (q.sender d).txBusy = true → (q.sender d).txIdx = 0 → (q.sender d).txN = 4 →
      (q.sender d).txBuf.readBytes 0 4 = wire (q.sender d).cfg (q.sender d).cfg.cmdSystemStatus [] →
      (q.sender d).rxFsm = .idle → (q.receiver d).rxFsm = .idle → (q.receiver d).txBusy = false →
      ∃ q', Pair.transfers (List.replicate 4 d ++ List.replicate 12 (!d)) q = .next q' ∧
        (q'.sender d).out.route =
          routed .statusReport (q.sender d).cfg.cmdSystemStatus (record (q.receiver d).cfg (q.receiver d).env) ∧
        (q'.sender d).out.reply = none ∧ (q'.sender d).txBusy = false ∧ (q'.receiver d).txBusy = false ∧
        (q'.sender d).rxFsm = .idle ∧ (q'.receiver d).rxFsm = .idle

/-! ### Frames -/

/-- The frame of the eleven frame rows: `SET_CITY` alone touches the city register (offsets 0..31) and the flag, the
two rows that reply alone touch the serializer, and only when it is idle (offsets 0..3 of `TXBUF` for the ack, 0..11
for the status record). -/
def Obligations.FrameOfDispatchedFrames : Prop :=
  ∀ (i : Instr) (s t : State), i.isFrame = true → exec i s = .next t →
    SameInputs s t ∧ SameReceiver s t ∧ SameRxCounters s t ∧ t.cnt.txFrames = s.cnt.txFrames ∧
    t.cnt.txBadLen = s.cnt.txBadLen ∧ t.cnt.txAbort = s.cnt.txAbort ∧ t.out.rxEv = s.out.rxEv ∧
    t.out.txEv = s.out.txEv ∧ t.out.fn = s.out.fn ∧
    ((∀ p, i ≠ .setCity p) → SameCity s t) ∧ (∀ a, 32 ≤ a → t.activeCity.read a = s.activeCity.read a) ∧
    ((∀ p, i ≠ .getWeather p) → i ≠ .systemStatusReq → SameSerializer s t ∧ t.cnt.txSkip = s.cnt.txSkip) ∧
    (s.txBusy = true → SameSerializer s t) ∧
    (∀ p, i = .getWeather p → ∀ a, 4 ≤ a → t.txBuf.read a = s.txBuf.read a) ∧
    (i = .systemStatusReq → ∀ a, 12 ≤ a → t.txBuf.read a = s.txBuf.read a)

/-- The frame of the receive events: the only cell of `RXACC` an `RX_BYTE` stores to is offset 0 for a start byte in
`Idle` and offset `rx_n` while collecting, none for a stray byte (R41, R101 to R103); a tick stores to none. -/
def Obligations.FrameOfReceiveEvents : Prop :=
  (∀ (b : Byte) (s t : State), exec (.rxByte b) s = .next t →
      SameInputs s t ∧
      (s.rxFsm = .idle → b = s.cfg.start → ∀ a, a ≠ 0 → t.rxAcc.read a = s.rxAcc.read a) ∧
      (s.rxFsm = .idle → b ≠ s.cfg.start → SameReceiver s t) ∧
      (s.rxFsm = .accumulating → ∀ a, a ≠ s.rxN → t.rxAcc.read a = s.rxAcc.read a) ∧
      (¬ Accepts t.out → SameCity s t ∧ SameSerializer s t ∧ SameDspCounters s t ∧ t.cnt.txSkip = s.cnt.txSkip) ∧
      t.cnt.rxTimeout = s.cnt.rxTimeout ∧ t.cnt.txFrames = s.cnt.txFrames ∧ t.cnt.txBadLen = s.cnt.txBadLen ∧
      t.cnt.txAbort = s.cnt.txAbort ∧ t.out.txEv = none) ∧
    ∀ s t : State, exec .rxTick s = .next t →
      SameInputs s t ∧ SameCity s t ∧ SameSerializer s t ∧ SameDspCounters s t ∧ t.rxExp = s.rxExp ∧
      (∀ a, t.rxAcc.read a = s.rxAcc.read a) ∧ t.cnt = { s.cnt with rxTimeout := t.cnt.rxTimeout } ∧
      t.out.route = none ∧ t.out.reply = none ∧ t.out.txEv = none

/-- The frame of the transmit and host events on the bytes they could reach: `TX_REQ` stores to offsets 0..3 +
|payload| of `TXBUF` when it is taken and to nothing otherwise; `TX_POP`, `TX_ABORT` and `FORCE_REFRESH_CLR` store to
nothing; `RESET` stores to the city register only. That `RESET` leaves the cells of `RXACC` and `TXBUF`, which are not
architectural then, is the model's choice (log entry 7). -/
def Obligations.FrameOfTransmitAndHostEvents : Prop :=
  (∀ (cmd : Byte) (p : List Byte) (s t : State), exec (.txReq cmd p) s = .next t →
      (∀ a, 4 + p.length ≤ a → t.txBuf.read a = s.txBuf.read a) ∧
      (t.out.txEv ≠ some .taken → SameSerializer s t) ∧
      t.cnt = { s.cnt with txSkip := t.cnt.txSkip, txBadLen := t.cnt.txBadLen }) ∧
    (∀ s t : State, exec .txPop s = .next t →
      (∀ a, t.txBuf.read a = s.txBuf.read a) ∧ t.txN = s.txN ∧ t.cnt = { s.cnt with txFrames := t.cnt.txFrames }) ∧
    (∀ s t : State, exec .txAbort s = .next t →
      (∀ a, t.txBuf.read a = s.txBuf.read a) ∧ t.txN = s.txN ∧ t.txIdx = s.txIdx ∧
      t.cnt = { s.cnt with txAbort := t.cnt.txAbort }) ∧
    (∀ s t : State, exec .forceRefreshClr s = .next t →
      SameInputs s t ∧ SameReceiver s t ∧ SameSerializer s t ∧ t.cnt = s.cnt ∧
      ∀ a, t.activeCity.read a = s.activeCity.read a) ∧
    ∀ s t : State, exec .reset s = .next t →
      (∀ a, t.rxAcc.read a = s.rxAcc.read a) ∧ (∀ a, t.txBuf.read a = s.txBuf.read a) ∧ t.rxExp = s.rxExp ∧
      t.txN = s.txN ∧ t.txIdx = s.txIdx
end

