-- ==== Sys2Proof/Laws/Checksum.lean ====
section
/-! SUPPORT. The checksum's algebra (40): the fold from any start, over an append, and over one changed byte. -/

namespace Sys2Proof

theorem foldl_xor (a : Byte) (p : List Byte) : p.foldl (fun x y => x ^^^ y) a = a ^^^ xor8 p := by
  unfold xor8
  induction p generalizing a with
  | nil => simp
  | cons b p ih => rw [List.foldl_cons, List.foldl_cons, ih, ih (0 ^^^ b)]; simp [BitVec.xor_assoc]

theorem xor8_nil : xor8 [] = 0 := rfl

theorem xor8_cons (b : Byte) (p : List Byte) : xor8 (b :: p) = b ^^^ xor8 p := by
  rw [xor8, List.foldl_cons, foldl_xor]; simp

theorem xor8_append (p q : List Byte) : xor8 (p ++ q) = xor8 p ^^^ xor8 q := by
  rw [xor8, List.foldl_append, foldl_xor]; rfl

theorem verify_iff (p : List Byte) (c : Byte) : verify p c = true ↔ xor8 p = c := by simp [verify]

end Sys2Proof
end

