-- ==== Sys2Proof/Laws/Encoding.lean ====
section
/-! SUPPORT. Small facts of the frame's image, the encoder and the row selection. -/

namespace Sys2Proof

theorem distinctBytes_iff (bs : List Byte) : distinctBytes bs = true ↔ bs.Nodup := by
  induction bs with
  | nil => simp [distinctBytes]
  | cons b bs ih => simp [distinctBytes, ih]

/-- R5 in propositions. -/
theorem Cfg.wf_iff (c : Cfg) :
    c.wf = true ↔
      c.ids.Nodup ∧ 1 ≤ c.stallLimit ∧ c.stallLimit ≤ 65535 ∧ c.cityReset.length = 32 ∧ c.cityReset.getLast? = some 0 := by
  simp [Cfg.wf, distinctBytes_iff, and_assoc]

@[simp] theorem zextLength_lengthByte {p : List Byte} (h : p.length ≤ 128) : zextLength (lengthByte p) = p.length := by
  simp only [zextLength, lengthByte, BitVec.toNat_ofNat]; omega

theorem zextLength_lt (b : Byte) : zextLength b < 256 := b.isLt

theorem lengthByte_of_length {p : List Byte} {b : Byte} (h : p.length = zextLength b) : lengthByte p = b := by
  apply BitVec.eq_of_toNat_eq
  have := b.isLt
  simp only [lengthByte, BitVec.toNat_ofNat, h, zextLength]; omega

@[simp] theorem length_frameImage (c : Cfg) (cmd : Byte) (p : List Byte) :
    (frameImage c cmd p).length = p.length + 4 := by simp [frameImage]

theorem encodeFrame_of_le {c : Cfg} {cmd : Byte} {p : List Byte} (h : p.length ≤ 128) :
    encodeFrame c cmd p = some (frameImage c cmd p) := if_pos h

theorem encodeFrame_of_gt {c : Cfg} {cmd : Byte} {p : List Byte} (h : 128 < p.length) :
    encodeFrame c cmd p = none := if_neg (by simp only [Config.maxPayload]; omega)

theorem encodeFrame_eq_some {c : Cfg} {cmd : Byte} {p bs : List Byte} (h : encodeFrame c cmd p = some bs) :
    p.length ≤ 128 ∧ bs = frameImage c cmd p := by
  unfold encodeFrame at h
  split at h
  · next hp => exact ⟨hp, (Option.some.inj h).symm⟩
  · exact absurd h (by simp)

/-- One direction of R141. -/
theorem validFrame_frameImage {c : Cfg} {cmd : Byte} {p : List Byte} (h : p.length ≤ 128) :
    validFrame c (frameImage c cmd p) = true := by
  simp [validFrame, frameImage, zextLength_lengthByte h, h]

/-- Every image the encoder gives is a valid frame. -/
theorem validFrame_of_encodeFrame {c : Cfg} {cmd : Byte} {p bs : List Byte} (h : encodeFrame c cmd p = some bs) :
    validFrame c bs = true := by
  obtain ⟨hp, rfl⟩ := encodeFrame_eq_some h
  exact validFrame_frameImage hp

/-- R151 and the opcode table select rows of frames only. -/
theorem isFrame_selectRow (c : Cfg) (cmd : Byte) (p : List Byte) : (selectRow c cmd p).isFrame = true := by
  unfold selectRow
  split_ifs <;> rfl

/-- The encoder of the selected row gives the image of the frame's own command and payload. -/
theorem encode_selectRow (c : Cfg) (cmd : Byte) (p : List Byte) :
    encode c (selectRow c cmd p) = encodeFrame c cmd p := by
  unfold selectRow
  split_ifs with h1 h2 h3 h4 h5 h6 h7 h8 h9 h10
  · rw [h1]; rfl
  · rw [h2]; rfl
  · rw [h3]; rfl
  · rw [h4]; rfl
  · rw [h5]; rfl
  · rw [h6, List.eq_nil_of_length_eq_zero h7]; rfl
  · rw [h6]; rfl
  · rw [h8]; rfl
  · rw [h9]; rfl
  · rw [h10]; rfl
  · rfl

/-- The selected row is well-formed for a payload a frame can carry. -/
theorem wf_selectRow (c : Cfg) (cmd : Byte) {p : List Byte} (hp : p.length ≤ 128) :
    (selectRow c cmd p).wf c = true := by
  unfold selectRow
  split_ifs with h1 h2 h3 h4 h5 h6 h7 h8 h9 h10
  on_goal 11 =>
    simp only [Instr.wf, Cfg.ids, Bool.and_eq_true, decide_eq_true_eq, List.mem_cons, List.not_mem_nil, or_false, not_or]
    exact ⟨⟨h1, h2, h3, h4, h5, h6, h8, h9, h10⟩, hp⟩
  all_goals simp only [Instr.wf, Bool.and_eq_true, decide_eq_true_eq, Config.maxPayload]
  all_goals omega

end Sys2Proof
end

