-- ==== Sys2Proof/Laws/Memory.lean ====
section
/-! SUPPORT. The laws of a byte space: a read after a write to the same offset gives the byte written, a write leaves every
other offset alone, and every operation keeps the canonical form. -/

namespace Sys2Proof.Machine.Memory

@[simp] theorem read_nil (a : Nat) : read [] a = 0 := rfl

theorem read_cons (c : Host.Cell) (m : Memory) (a : Nat) : read (c :: m) a = if c.1 = a then c.2 else read m a := rfl

theorem read_filter_same (m : Memory) (a : Nat) : read (m.filter fun c => c.1 != a) a = 0 := by
  induction m with
  | nil => rfl
  | cons c m ih =>
    by_cases h : c.1 = a
    · simpa [h] using ih
    · simpa [h, read_cons] using ih

theorem read_filter_other (m : Memory) {a a' : Nat} (h : a' ≠ a) :
    read (m.filter fun c => c.1 != a) a' = read m a' := by
  induction m with
  | nil => rfl
  | cons c m ih =>
    by_cases hc : c.1 = a
    · have hca : ¬ c.1 = a' := fun h' => h (h'.symm.trans hc)
      rw [read_cons, if_neg hca, List.filter_cons, if_neg (by simp [hc]), ih]
    · simp only [List.filter_cons, bne_iff_ne, ne_eq, hc, not_false_eq_true, if_true, read_cons, ih]

theorem read_place_same (m : Memory) (a : Nat) (b : Byte) (h : ∀ c ∈ m, c.1 ≠ a) : read (place a b m) a = b := by
  induction m with
  | nil => simp [place, read_cons]
  | cons c m ih =>
    simp only [place]
    split
    · simp [read_cons]
    · rw [read_cons, if_neg (h c (by simp))]
      exact ih fun c' hc' => h c' (by simp [hc'])

theorem read_place_other (m : Memory) {a a' : Nat} (b : Byte) (h : a' ≠ a) : read (place a b m) a' = read m a' := by
  induction m with
  | nil => simp [place, read_cons, h.symm]
  | cons c m ih =>
    simp only [place]
    split
    · rw [read_cons, if_neg h.symm]
    · simp only [read_cons, ih]

@[simp] theorem read_write_same (m : Memory) (a : Nat) (b : Byte) : read (write m a b) a = b := by
  unfold write
  split
  · next h => rw [read_filter_same, h]
  · exact read_place_same _ a b fun c hc => by simpa using (List.mem_filter.mp hc).2

theorem read_write_other (m : Memory) {a a' : Nat} (b : Byte) (h : a' ≠ a) : read (write m a b) a' = read m a' := by
  unfold write
  split
  · exact read_filter_other m h
  · rw [read_place_other _ b h, read_filter_other m h]

theorem read_write (m : Memory) (a a' : Nat) (b : Byte) :
    read (write m a b) a' = if a' = a then b else read m a' := by
  split
  · next h => rw [h, read_write_same]
  · next h => exact read_write_other m b h

@[simp] theorem writeBytes_nil (m : Memory) (a : Nat) : writeBytes m a [] = m := rfl

@[simp] theorem writeBytes_cons (m : Memory) (a : Nat) (b : Byte) (bs : List Byte) :
    writeBytes m a (b :: bs) = writeBytes (m.write a b) (a + 1) bs := rfl

/-- A read after a write of several bytes. -/
theorem read_writeBytes (m : Memory) (a a' : Nat) (bs : List Byte) :
    read (writeBytes m a bs) a' = if a ≤ a' ∧ a' < a + bs.length then bs.getD (a' - a) 0 else read m a' := by
  induction bs generalizing m a with
  | nil => simp [show ¬ (a ≤ a' ∧ a' < a) by omega]
  | cons b bs ih =>
    rw [writeBytes_cons, ih, List.length_cons]
    by_cases h1 : a' = a
    · subst h1; simp
    · by_cases h2 : a + 1 ≤ a' ∧ a' < a + 1 + bs.length
      · rw [if_pos h2, if_pos (by omega), show a' - a = (a' - (a + 1)) + 1 by omega, List.getD_cons_succ]
      · rw [if_neg h2, if_neg (by omega), read_write_other m b h1]

@[simp] theorem readBytes_zero (m : Memory) (a : Nat) : readBytes m a 0 = [] := rfl

theorem readBytes_succ (m : Memory) (a n : Nat) : readBytes m a (n + 1) = read m a :: readBytes m (a + 1) n := rfl

@[simp] theorem length_readBytes (m : Memory) (a n : Nat) : (readBytes m a n).length = n := by
  induction n generalizing a with
  | zero => rfl
  | succ n ih => simp [readBytes_succ, ih]

/-- The bytes read depend on the offsets read only. -/
theorem readBytes_congr {m m' : Memory} {a n : Nat} (h : ∀ k, a ≤ k → k < a + n → read m k = read m' k) :
    readBytes m a n = readBytes m' a n := by
  induction n generalizing a with
  | zero => rfl
  | succ n ih =>
    rw [readBytes_succ, readBytes_succ, h a (by omega) (by omega), ih fun k h1 h2 => h k (by omega) (by omega)]

theorem readBytes_append (m : Memory) (a n k : Nat) :
    readBytes m a (n + k) = readBytes m a n ++ readBytes m (a + n) k := by
  induction n generalizing a with
  | zero => simp
  | succ n ih =>
    rw [show n + 1 + k = (n + k) + 1 by omega, readBytes_succ, readBytes_succ, ih,
      show a + 1 + n = a + (n + 1) by omega, List.cons_append]

/-- What was written is what is read back. -/
theorem readBytes_writeBytes_same (m : Memory) (a : Nat) (bs : List Byte) :
    readBytes (writeBytes m a bs) a bs.length = bs := by
  induction bs generalizing m a with
  | nil => rfl
  | cons b bs ih =>
    rw [List.length_cons, readBytes_succ, writeBytes_cons, ih, read_writeBytes, if_neg (by omega), read_write_same]

theorem getD_readBytes (m : Memory) (a n k : Nat) (h : k < n) : (readBytes m a n).getD k 0 = read m (a + k) := by
  induction n generalizing a k with
  | zero => omega
  | succ n ih =>
    cases k with
    | zero => rfl
    | succ k =>
      rw [readBytes_succ, List.getD_cons_succ, ih (a + 1) k (by omega), show a + 1 + k = a + (k + 1) by omega]

/-! The canonical form. -/

theorem wfFrom_mono {lo lo' : Nat} {m : Memory} (h : lo' ≤ lo) (hm : wfFrom lo m = true) : wfFrom lo' m = true := by
  cases m with
  | nil => rfl
  | cons c m => simp only [wfFrom, Bool.and_eq_true, decide_eq_true_eq] at hm ⊢; exact ⟨⟨by omega, hm.1.2⟩, hm.2⟩

theorem wfFrom_filter {lo : Nat} {m : Memory} (q : Host.Cell → Bool) (hm : wfFrom lo m = true) :
    wfFrom lo (m.filter q) = true := by
  induction m generalizing lo with
  | nil => rfl
  | cons c m ih =>
    simp only [wfFrom, Bool.and_eq_true, decide_eq_true_eq] at hm
    rw [List.filter_cons]
    split
    · simp only [wfFrom, Bool.and_eq_true, decide_eq_true_eq]; exact ⟨hm.1, ih hm.2⟩
    · exact wfFrom_mono (by omega) (ih hm.2)

theorem wfFrom_place {lo : Nat} {m : Memory} {a : Nat} {b : Byte} (hb : b ≠ 0) (hlo : lo ≤ a)
    (ha : ∀ c ∈ m, c.1 ≠ a) (hm : wfFrom lo m = true) : wfFrom lo (place a b m) = true := by
  induction m generalizing lo with
  | nil => simp only [place, wfFrom, Bool.and_eq_true, decide_eq_true_eq]; exact ⟨⟨hlo, hb⟩, trivial⟩
  | cons c m ih =>
    simp only [wfFrom, Bool.and_eq_true, decide_eq_true_eq] at hm
    have hc : c.1 ≠ a := ha c (by simp)
    simp only [place]
    split
    · simp only [wfFrom, Bool.and_eq_true, decide_eq_true_eq]
      exact ⟨⟨hlo, hb⟩, ⟨⟨by omega, hm.1.2⟩, hm.2⟩⟩
    · simp only [wfFrom, Bool.and_eq_true, decide_eq_true_eq]
      exact ⟨hm.1, ih (by omega) (fun c' hc' => ha c' (by simp [hc'])) hm.2⟩

/-- A write keeps the canonical form. -/
theorem wf_write {m : Memory} (a : Nat) (b : Byte) (hm : m.wf = true) : (m.write a b).wf = true := by
  unfold write wf at *
  split
  · exact wfFrom_filter _ hm
  · next hb =>
    exact wfFrom_place hb (by omega) (fun c hc => by simpa using (List.mem_filter.mp hc).2) (wfFrom_filter _ hm)

theorem wf_writeBytes {m : Memory} (a : Nat) (bs : List Byte) (hm : m.wf = true) : (m.writeBytes a bs).wf = true := by
  induction bs generalizing m a with
  | nil => exact hm
  | cons b bs ih => exact ih (a + 1) (wf_write a b hm)

theorem mem_place {m : Memory} {a : Nat} {b : Byte} {c : Host.Cell} (h : c ∈ place a b m) : c = (a, b) ∨ c ∈ m := by
  induction m with
  | nil => simpa [place] using h
  | cons d m ih =>
    simp only [place] at h
    split at h
    · simpa using h
    · rcases List.mem_cons.mp h with h | h
      · exact .inr (by simp [h])
      · exact (ih h).imp_right (by intro h; simp [h])

/-- A write inside the space lists no offset outside it. -/
theorem within_write {size : Nat} {m : Memory} {a : Nat} (b : Byte) (ha : a < size) (hm : m.within size = true) :
    (m.write a b).within size = true := by
  simp only [within, List.all_eq_true, decide_eq_true_eq] at hm ⊢
  intro c hc
  unfold write at hc
  split at hc
  · exact hm c (List.mem_filter.mp hc).1
  · rcases mem_place hc with h | h
    · simpa [h] using ha
    · exact hm c (List.mem_filter.mp h).1

theorem within_writeBytes {size : Nat} {m : Memory} {a : Nat} {bs : List Byte} (ha : a + bs.length ≤ size)
    (hm : m.within size = true) : (m.writeBytes a bs).within size = true := by
  induction bs generalizing m a with
  | nil => exact hm
  | cons b bs ih =>
    rw [List.length_cons] at ha
    exact ih (by omega) (within_write b (by omega) hm)

theorem wf_ofBytes (bs : List Byte) : (ofBytes bs).wf = true := wf_writeBytes 0 bs rfl

theorem within_ofBytes {size : Nat} {bs : List Byte} (h : bs.length ≤ size) : (ofBytes bs).within size = true :=
  within_writeBytes (by omega) rfl

theorem read_ofBytes (bs : List Byte) (a : Nat) : (ofBytes bs).read a = bs.getD a 0 := by
  rw [ofBytes, read_writeBytes]
  split
  · simp
  · rw [List.getD_eq_default _ _ (by omega)]; rfl

theorem readBytes_ofBytes (bs : List Byte) : (ofBytes bs).readBytes 0 bs.length = bs :=
  readBytes_writeBytes_same [] 0 bs

/-- Two canonical spaces that read alike are equal data. -/
theorem read_eq_zero_of_wfFrom {lo a : Nat} {m : Memory} (hm : wfFrom lo m = true) (h : a < lo) : read m a = 0 := by
  induction m generalizing lo with
  | nil => rfl
  | cons c m ih =>
    simp only [wfFrom, Bool.and_eq_true, decide_eq_true_eq] at hm
    rw [read_cons, if_neg (by omega)]
    exact ih hm.2 (by omega)

theorem ext_of_wfFrom {lo : Nat} {m m' : Memory} (hm : wfFrom lo m = true) (hm' : wfFrom lo m' = true)
    (h : ∀ a, read m a = read m' a) : m = m' := by
  induction m generalizing lo m' with
  | nil =>
    cases m' with
    | nil => rfl
    | cons c m' =>
      simp only [wfFrom, Bool.and_eq_true, decide_eq_true_eq] at hm'
      exact absurd (by simpa [read_cons] using (h c.1).symm) hm'.1.2
  | cons c m ih =>
    have hc := hm
    simp only [wfFrom, Bool.and_eq_true, decide_eq_true_eq] at hc
    cases m' with
    | nil => exact absurd (by simpa [read_cons] using h c.1) hc.1.2
    | cons d m' =>
      have hd := hm'
      simp only [wfFrom, Bool.and_eq_true, decide_eq_true_eq] at hd
      have h1 : c.1 = d.1 := by
        rcases Nat.lt_trichotomy c.1 d.1 with hlt | heq | hlt
        · have := h c.1
          rw [read_cons, if_pos rfl, read_cons, if_neg (by omega), read_eq_zero_of_wfFrom hd.2 (by omega)] at this
          exact absurd this hc.1.2
        · exact heq
        · have := h d.1
          rw [read_cons d, if_pos rfl, read_cons, if_neg (by omega), read_eq_zero_of_wfFrom hc.2 (by omega)] at this
          exact absurd this.symm hd.1.2
      have h2 : c.2 = d.2 := by simpa [read_cons, h1] using h c.1
      have hcd : c = d := Prod.ext h1 h2
      subst hcd
      rw [ih hc.2 hd.2 fun a => ?_]
      have := h a
      simp only [read_cons] at this
      split at this
      · next ha =>
        rw [read_eq_zero_of_wfFrom hc.2 (by omega), read_eq_zero_of_wfFrom hd.2 (by omega)]
      · exact this

end Sys2Proof.Machine.Memory
end

