-- ==== Sys2Proof/Laws/State.lean ====
section
/-! SUPPORT. Every field of every shared update of State, by rfl: no later proof unfolds a record update. -/

namespace Sys2Proof.Machine

section bump
variable (k : Counter) (s : State)
@[simp] theorem bump_cfg : (s.bump k).cfg = s.cfg := rfl
@[simp] theorem bump_env : (s.bump k).env = s.env := rfl
@[simp] theorem bump_inputs : (s.bump k).inputs = s.inputs := rfl
@[simp] theorem bump_rxFsm : (s.bump k).rxFsm = s.rxFsm := rfl
@[simp] theorem bump_rxN : (s.bump k).rxN = s.rxN := rfl
@[simp] theorem bump_rxExpValid : (s.bump k).rxExpValid = s.rxExpValid := rfl
@[simp] theorem bump_rxExp : (s.bump k).rxExp = s.rxExp := rfl
@[simp] theorem bump_rxAcc : (s.bump k).rxAcc = s.rxAcc := rfl
@[simp] theorem bump_rxStall : (s.bump k).rxStall = s.rxStall := rfl
@[simp] theorem bump_txBusy : (s.bump k).txBusy = s.txBusy := rfl
@[simp] theorem bump_txBuf : (s.bump k).txBuf = s.txBuf := rfl
@[simp] theorem bump_txN : (s.bump k).txN = s.txN := rfl
@[simp] theorem bump_txIdx : (s.bump k).txIdx = s.txIdx := rfl
@[simp] theorem bump_activeCity : (s.bump k).activeCity = s.activeCity := rfl
@[simp] theorem bump_forceRefresh : (s.bump k).forceRefresh = s.forceRefresh := rfl
@[simp] theorem bump_cnt : (s.bump k).cnt = s.cnt.bump k := rfl
@[simp] theorem bump_out : (s.bump k).out = s.out := rfl
end bump

section beginStep
variable (s : State)
@[simp] theorem beginStep_cfg : s.beginStep.cfg = s.cfg := rfl
@[simp] theorem beginStep_env : s.beginStep.env = s.env := rfl
@[simp] theorem beginStep_inputs : s.beginStep.inputs = s.inputs := rfl
@[simp] theorem beginStep_rxFsm : s.beginStep.rxFsm = s.rxFsm := rfl
@[simp] theorem beginStep_rxN : s.beginStep.rxN = s.rxN := rfl
@[simp] theorem beginStep_rxExpValid : s.beginStep.rxExpValid = s.rxExpValid := rfl
@[simp] theorem beginStep_rxExp : s.beginStep.rxExp = s.rxExp := rfl
@[simp] theorem beginStep_rxAcc : s.beginStep.rxAcc = s.rxAcc := rfl
@[simp] theorem beginStep_rxStall : s.beginStep.rxStall = s.rxStall := rfl
@[simp] theorem beginStep_txBusy : s.beginStep.txBusy = s.txBusy := rfl
@[simp] theorem beginStep_txBuf : s.beginStep.txBuf = s.txBuf := rfl
@[simp] theorem beginStep_txN : s.beginStep.txN = s.txN := rfl
@[simp] theorem beginStep_txIdx : s.beginStep.txIdx = s.txIdx := rfl
@[simp] theorem beginStep_activeCity : s.beginStep.activeCity = s.activeCity := rfl
@[simp] theorem beginStep_forceRefresh : s.beginStep.forceRefresh = s.forceRefresh := rfl
@[simp] theorem beginStep_cnt : s.beginStep.cnt = s.cnt := rfl
@[simp] theorem beginStep_out : s.beginStep.out = Out.silent := rfl
end beginStep

section setRxEv
variable (e : RxEv) (s : State)
@[simp] theorem setRxEv_cfg : (s.setRxEv e).cfg = s.cfg := rfl
@[simp] theorem setRxEv_env : (s.setRxEv e).env = s.env := rfl
@[simp] theorem setRxEv_inputs : (s.setRxEv e).inputs = s.inputs := rfl
@[simp] theorem setRxEv_rxFsm : (s.setRxEv e).rxFsm = s.rxFsm := rfl
@[simp] theorem setRxEv_rxN : (s.setRxEv e).rxN = s.rxN := rfl
@[simp] theorem setRxEv_rxExpValid : (s.setRxEv e).rxExpValid = s.rxExpValid := rfl
@[simp] theorem setRxEv_rxExp : (s.setRxEv e).rxExp = s.rxExp := rfl
@[simp] theorem setRxEv_rxAcc : (s.setRxEv e).rxAcc = s.rxAcc := rfl
@[simp] theorem setRxEv_rxStall : (s.setRxEv e).rxStall = s.rxStall := rfl
@[simp] theorem setRxEv_txBusy : (s.setRxEv e).txBusy = s.txBusy := rfl
@[simp] theorem setRxEv_txBuf : (s.setRxEv e).txBuf = s.txBuf := rfl
@[simp] theorem setRxEv_txN : (s.setRxEv e).txN = s.txN := rfl
@[simp] theorem setRxEv_txIdx : (s.setRxEv e).txIdx = s.txIdx := rfl
@[simp] theorem setRxEv_activeCity : (s.setRxEv e).activeCity = s.activeCity := rfl
@[simp] theorem setRxEv_forceRefresh : (s.setRxEv e).forceRefresh = s.forceRefresh := rfl
@[simp] theorem setRxEv_cnt : (s.setRxEv e).cnt = s.cnt := rfl
@[simp] theorem setRxEv_out : (s.setRxEv e).out = { s.out with rxEv := some e } := rfl
end setRxEv

section setTxEv
variable (e : TxEv) (s : State)
@[simp] theorem setTxEv_cfg : (s.setTxEv e).cfg = s.cfg := rfl
@[simp] theorem setTxEv_env : (s.setTxEv e).env = s.env := rfl
@[simp] theorem setTxEv_inputs : (s.setTxEv e).inputs = s.inputs := rfl
@[simp] theorem setTxEv_rxFsm : (s.setTxEv e).rxFsm = s.rxFsm := rfl
@[simp] theorem setTxEv_rxN : (s.setTxEv e).rxN = s.rxN := rfl
@[simp] theorem setTxEv_rxExpValid : (s.setTxEv e).rxExpValid = s.rxExpValid := rfl
@[simp] theorem setTxEv_rxExp : (s.setTxEv e).rxExp = s.rxExp := rfl
@[simp] theorem setTxEv_rxAcc : (s.setTxEv e).rxAcc = s.rxAcc := rfl
@[simp] theorem setTxEv_rxStall : (s.setTxEv e).rxStall = s.rxStall := rfl
@[simp] theorem setTxEv_txBusy : (s.setTxEv e).txBusy = s.txBusy := rfl
@[simp] theorem setTxEv_txBuf : (s.setTxEv e).txBuf = s.txBuf := rfl
@[simp] theorem setTxEv_txN : (s.setTxEv e).txN = s.txN := rfl
@[simp] theorem setTxEv_txIdx : (s.setTxEv e).txIdx = s.txIdx := rfl
@[simp] theorem setTxEv_activeCity : (s.setTxEv e).activeCity = s.activeCity := rfl
@[simp] theorem setTxEv_forceRefresh : (s.setTxEv e).forceRefresh = s.forceRefresh := rfl
@[simp] theorem setTxEv_cnt : (s.setTxEv e).cnt = s.cnt := rfl
@[simp] theorem setTxEv_out : (s.setTxEv e).out = { s.out with txEv := some e } := rfl
end setTxEv

section setReply
variable (r : ReplyOut) (s : State)
@[simp] theorem setReply_cfg : (s.setReply r).cfg = s.cfg := rfl
@[simp] theorem setReply_env : (s.setReply r).env = s.env := rfl
@[simp] theorem setReply_inputs : (s.setReply r).inputs = s.inputs := rfl
@[simp] theorem setReply_rxFsm : (s.setReply r).rxFsm = s.rxFsm := rfl
@[simp] theorem setReply_rxN : (s.setReply r).rxN = s.rxN := rfl
@[simp] theorem setReply_rxExpValid : (s.setReply r).rxExpValid = s.rxExpValid := rfl
@[simp] theorem setReply_rxExp : (s.setReply r).rxExp = s.rxExp := rfl
@[simp] theorem setReply_rxAcc : (s.setReply r).rxAcc = s.rxAcc := rfl
@[simp] theorem setReply_rxStall : (s.setReply r).rxStall = s.rxStall := rfl
@[simp] theorem setReply_txBusy : (s.setReply r).txBusy = s.txBusy := rfl
@[simp] theorem setReply_txBuf : (s.setReply r).txBuf = s.txBuf := rfl
@[simp] theorem setReply_txN : (s.setReply r).txN = s.txN := rfl
@[simp] theorem setReply_txIdx : (s.setReply r).txIdx = s.txIdx := rfl
@[simp] theorem setReply_activeCity : (s.setReply r).activeCity = s.activeCity := rfl
@[simp] theorem setReply_forceRefresh : (s.setReply r).forceRefresh = s.forceRefresh := rfl
@[simp] theorem setReply_cnt : (s.setReply r).cnt = s.cnt := rfl
@[simp] theorem setReply_out : (s.setReply r).out = { s.out with reply := some r } := rfl
end setReply

section setFn
variable (r : FnResult) (s : State)
@[simp] theorem setFn_cfg : (s.setFn r).cfg = s.cfg := rfl
@[simp] theorem setFn_env : (s.setFn r).env = s.env := rfl
@[simp] theorem setFn_inputs : (s.setFn r).inputs = s.inputs := rfl
@[simp] theorem setFn_rxFsm : (s.setFn r).rxFsm = s.rxFsm := rfl
@[simp] theorem setFn_rxN : (s.setFn r).rxN = s.rxN := rfl
@[simp] theorem setFn_rxExpValid : (s.setFn r).rxExpValid = s.rxExpValid := rfl
@[simp] theorem setFn_rxExp : (s.setFn r).rxExp = s.rxExp := rfl
@[simp] theorem setFn_rxAcc : (s.setFn r).rxAcc = s.rxAcc := rfl
@[simp] theorem setFn_rxStall : (s.setFn r).rxStall = s.rxStall := rfl
@[simp] theorem setFn_txBusy : (s.setFn r).txBusy = s.txBusy := rfl
@[simp] theorem setFn_txBuf : (s.setFn r).txBuf = s.txBuf := rfl
@[simp] theorem setFn_txN : (s.setFn r).txN = s.txN := rfl
@[simp] theorem setFn_txIdx : (s.setFn r).txIdx = s.txIdx := rfl
@[simp] theorem setFn_activeCity : (s.setFn r).activeCity = s.activeCity := rfl
@[simp] theorem setFn_forceRefresh : (s.setFn r).forceRefresh = s.forceRefresh := rfl
@[simp] theorem setFn_cnt : (s.setFn r).cnt = s.cnt := rfl
@[simp] theorem setFn_out : (s.setFn r).out = { s.out with fn := some r } := rfl
end setFn

section toIdle
variable (s : State)
@[simp] theorem toIdle_cfg : s.toIdle.cfg = s.cfg := rfl
@[simp] theorem toIdle_env : s.toIdle.env = s.env := rfl
@[simp] theorem toIdle_inputs : s.toIdle.inputs = s.inputs := rfl
@[simp] theorem toIdle_rxFsm : s.toIdle.rxFsm = .idle := rfl
@[simp] theorem toIdle_rxN : s.toIdle.rxN = 0 := rfl
@[simp] theorem toIdle_rxExpValid : s.toIdle.rxExpValid = false := rfl
@[simp] theorem toIdle_rxExp : s.toIdle.rxExp = s.rxExp := rfl
@[simp] theorem toIdle_rxAcc : s.toIdle.rxAcc = s.rxAcc := rfl
@[simp] theorem toIdle_rxStall : s.toIdle.rxStall = 0 := rfl
@[simp] theorem toIdle_txBusy : s.toIdle.txBusy = s.txBusy := rfl
@[simp] theorem toIdle_txBuf : s.toIdle.txBuf = s.txBuf := rfl
@[simp] theorem toIdle_txN : s.toIdle.txN = s.txN := rfl
@[simp] theorem toIdle_txIdx : s.toIdle.txIdx = s.txIdx := rfl
@[simp] theorem toIdle_activeCity : s.toIdle.activeCity = s.activeCity := rfl
@[simp] theorem toIdle_forceRefresh : s.toIdle.forceRefresh = s.forceRefresh := rfl
@[simp] theorem toIdle_cnt : s.toIdle.cnt = s.cnt := rfl
@[simp] theorem toIdle_out : s.toIdle.out = s.out := rfl
end toIdle

section routeTo
variable (r : Route) (cmd : Byte) (p : List Byte) (s : State)
@[simp] theorem routeTo_cfg : (routeTo r cmd p s).cfg = s.cfg := rfl
@[simp] theorem routeTo_env : (routeTo r cmd p s).env = s.env := rfl
@[simp] theorem routeTo_inputs : (routeTo r cmd p s).inputs = s.inputs := rfl
@[simp] theorem routeTo_rxFsm : (routeTo r cmd p s).rxFsm = s.rxFsm := rfl
@[simp] theorem routeTo_rxN : (routeTo r cmd p s).rxN = s.rxN := rfl
@[simp] theorem routeTo_rxExpValid : (routeTo r cmd p s).rxExpValid = s.rxExpValid := rfl
@[simp] theorem routeTo_rxExp : (routeTo r cmd p s).rxExp = s.rxExp := rfl
@[simp] theorem routeTo_rxAcc : (routeTo r cmd p s).rxAcc = s.rxAcc := rfl
@[simp] theorem routeTo_rxStall : (routeTo r cmd p s).rxStall = s.rxStall := rfl
@[simp] theorem routeTo_txBusy : (routeTo r cmd p s).txBusy = s.txBusy := rfl
@[simp] theorem routeTo_txBuf : (routeTo r cmd p s).txBuf = s.txBuf := rfl
@[simp] theorem routeTo_txN : (routeTo r cmd p s).txN = s.txN := rfl
@[simp] theorem routeTo_txIdx : (routeTo r cmd p s).txIdx = s.txIdx := rfl
@[simp] theorem routeTo_activeCity : (routeTo r cmd p s).activeCity = s.activeCity := rfl
@[simp] theorem routeTo_forceRefresh : (routeTo r cmd p s).forceRefresh = s.forceRefresh := rfl
@[simp] theorem routeTo_cnt : (routeTo r cmd p s).cnt = s.cnt := rfl
@[simp] theorem routeTo_out : (routeTo r cmd p s).out = { s.out with route := some ⟨r, cmd, lengthByte p, p⟩, reply := none } := rfl
end routeTo

section deliver
variable (i : Input) (rest : List Input) (s : State)
@[simp] theorem deliver_cfg : (s.deliver i rest).cfg = s.cfg := rfl
@[simp] theorem deliver_env : (s.deliver i rest).env = i.env := rfl
@[simp] theorem deliver_inputs : (s.deliver i rest).inputs = rest := rfl
@[simp] theorem deliver_rxFsm : (s.deliver i rest).rxFsm = s.rxFsm := rfl
@[simp] theorem deliver_rxN : (s.deliver i rest).rxN = s.rxN := rfl
@[simp] theorem deliver_rxExpValid : (s.deliver i rest).rxExpValid = s.rxExpValid := rfl
@[simp] theorem deliver_rxExp : (s.deliver i rest).rxExp = s.rxExp := rfl
@[simp] theorem deliver_rxAcc : (s.deliver i rest).rxAcc = s.rxAcc := rfl
@[simp] theorem deliver_rxStall : (s.deliver i rest).rxStall = s.rxStall := rfl
@[simp] theorem deliver_txBusy : (s.deliver i rest).txBusy = s.txBusy := rfl
@[simp] theorem deliver_txBuf : (s.deliver i rest).txBuf = s.txBuf := rfl
@[simp] theorem deliver_txN : (s.deliver i rest).txN = s.txN := rfl
@[simp] theorem deliver_txIdx : (s.deliver i rest).txIdx = s.txIdx := rfl
@[simp] theorem deliver_activeCity : (s.deliver i rest).activeCity = s.activeCity := rfl
@[simp] theorem deliver_forceRefresh : (s.deliver i rest).forceRefresh = s.forceRefresh := rfl
@[simp] theorem deliver_cnt : (s.deliver i rest).cnt = s.cnt := rfl
@[simp] theorem deliver_out : (s.deliver i rest).out = s.out := rfl
end deliver

section presentEvent
variable (e : Event) (s : State)
@[simp] theorem presentEvent_cfg : (s.presentEvent e).cfg = s.cfg := rfl
@[simp] theorem presentEvent_env : (s.presentEvent e).env = s.env := rfl
@[simp] theorem presentEvent_inputs : (s.presentEvent e).inputs = ⟨e, s.env⟩ :: s.inputs := rfl
@[simp] theorem presentEvent_rxFsm : (s.presentEvent e).rxFsm = s.rxFsm := rfl
@[simp] theorem presentEvent_rxN : (s.presentEvent e).rxN = s.rxN := rfl
@[simp] theorem presentEvent_rxExpValid : (s.presentEvent e).rxExpValid = s.rxExpValid := rfl
@[simp] theorem presentEvent_rxExp : (s.presentEvent e).rxExp = s.rxExp := rfl
@[simp] theorem presentEvent_rxAcc : (s.presentEvent e).rxAcc = s.rxAcc := rfl
@[simp] theorem presentEvent_rxStall : (s.presentEvent e).rxStall = s.rxStall := rfl
@[simp] theorem presentEvent_txBusy : (s.presentEvent e).txBusy = s.txBusy := rfl
@[simp] theorem presentEvent_txBuf : (s.presentEvent e).txBuf = s.txBuf := rfl
@[simp] theorem presentEvent_txN : (s.presentEvent e).txN = s.txN := rfl
@[simp] theorem presentEvent_txIdx : (s.presentEvent e).txIdx = s.txIdx := rfl
@[simp] theorem presentEvent_activeCity : (s.presentEvent e).activeCity = s.activeCity := rfl
@[simp] theorem presentEvent_forceRefresh : (s.presentEvent e).forceRefresh = s.forceRefresh := rfl
@[simp] theorem presentEvent_cnt : (s.presentEvent e).cnt = s.cnt := rfl
@[simp] theorem presentEvent_out : (s.presentEvent e).out = s.out := rfl
end presentEvent

end Sys2Proof.Machine
end

