-- ==== Sys2Proof/Laws/Ops.lean ====
section
/-! SUPPORT. One specification lemma per shared operation: everything it can do, so that no later proof unfolds it. -/

namespace Sys2Proof.Machine

/-- `memRead` answers exactly where every offset exists. -/
theorem memRead_of_le {sp : Space} {a n : Nat} {s : State} (h : a + n ≤ sp.size) :
    memRead sp a n s = some ((s.space sp).readBytes a n) := if_pos h

theorem memRead_eq_some {sp : Space} {a n : Nat} {s : State} {bs : List Byte} (h : memRead sp a n s = some bs) :
    a + n ≤ sp.size ∧ bs = (s.space sp).readBytes a n := by
  unfold memRead at h
  split at h
  · next hle => exact ⟨hle, (Option.some.inj h).symm⟩
  · exact absurd h (by simp)

/-- `memWrite` answers exactly where every offset exists. -/
theorem memWrite_of_le {sp : Space} {a : Nat} {bs : List Byte} {s : State} (h : a + bs.length ≤ sp.size) :
    memWrite sp a bs s = some (s.setSpace sp ((s.space sp).writeBytes a bs)) := if_pos h

theorem memWrite_eq_some {sp : Space} {a : Nat} {bs : List Byte} {s t : State} (h : memWrite sp a bs s = some t) :
    a + bs.length ≤ sp.size ∧ t = s.setSpace sp ((s.space sp).writeBytes a bs) := by
  unfold memWrite at h
  split at h
  · next hle => exact ⟨hle, (Option.some.inj h).symm⟩
  · exact absurd h (by simp)

/-- The append (R103) inside the accumulator. -/
theorem appendByte_of_lt {b : Byte} {s : State} (h : s.rxN < 132) :
    appendByte b s = some { s with rxAcc := s.rxAcc.write s.rxN b, rxN := s.rxN + 1, rxStall := 0 } := by
  unfold appendByte
  rw [memWrite_of_le (show s.rxN + [b].length ≤ Space.rxAcc.size from h)]
  rfl

theorem appendByte_eq_some {b : Byte} {s t : State} (h : appendByte b s = some t) :
    s.rxN < 132 ∧ t = { s with rxAcc := s.rxAcc.write s.rxN b, rxN := s.rxN + 1, rxStall := 0 } := by
  by_cases hn : s.rxN < 132
  · rw [appendByte_of_lt hn] at h; exact ⟨hn, (Option.some.inj h).symm⟩
  · have : ¬ s.rxN + [b].length ≤ Space.rxAcc.size := fun h => hn h
    rw [appendByte, memWrite, if_neg this] at h
    exact absurd h (by simp)

/-- The extraction (R107) of a frame whose payload lies inside the accumulator. -/
theorem extractFrame_of_le {s : State} (h : (s.rxAcc.read 2).toNat ≤ 128) :
    extractFrame s =
      some ⟨s.rxAcc.read 1, s.rxAcc.read 2, s.rxAcc.read 3, s.rxAcc.readBytes 4 (s.rxAcc.read 2).toNat⟩ := by
  unfold extractFrame payloadBlock
  rw [memRead_of_le (sp := .rxAcc) (by show 4 + (s.rxAcc.read 2).toNat ≤ 132; omega)]
  rfl

theorem extractFrame_eq_some {s : State} {f : Frame} (h : extractFrame s = some f) :
    (s.rxAcc.read 2).toNat ≤ 128 ∧
      f = ⟨s.rxAcc.read 1, s.rxAcc.read 2, s.rxAcc.read 3, s.rxAcc.readBytes 4 (s.rxAcc.read 2).toNat⟩ := by
  by_cases hle : (s.rxAcc.read 2).toNat ≤ 128
  · rw [extractFrame_of_le hle] at h; exact ⟨hle, (Option.some.inj h).symm⟩
  · have : ¬ Config.headerSize + zextLength (headerByte 2 s) ≤ Space.rxAcc.size := by
      show ¬ 4 + (s.rxAcc.read 2).toNat ≤ 132
      omega
    simp only [extractFrame, payloadBlock, memRead, if_neg this] at h
    exact absurd h (by simp)

/-- The pending byte (R135) inside the transmit buffer. -/
theorem pendingByte_of_lt {s : State} (h : s.txIdx < 132) : pendingByte s = some (s.txBuf.read s.txIdx) := by
  unfold pendingByte
  rw [memRead_of_le (show s.txIdx + 1 ≤ Space.txBuf.size from h)]
  rfl

theorem pendingByte_eq_some {s : State} {b : Byte} (h : pendingByte s = some b) :
    s.txIdx < 132 ∧ b = s.txBuf.read s.txIdx := by
  by_cases hlt : s.txIdx < 132
  · rw [pendingByte_of_lt hlt] at h; exact ⟨hlt, (Option.some.inj h).symm⟩
  · have : ¬ s.txIdx + 1 ≤ Space.txBuf.size := fun h => hlt h
    simp [pendingByte, memRead, this] at h

/-- The state after a frame's image is loaded into the serializer (R132). -/
def loaded (cmd : Byte) (p : List Byte) (s : State) : State :=
  { s with
    txBuf := s.txBuf.writeBytes 0 (frameImage s.cfg cmd p)
    txN := p.length + 4
    txIdx := 0
    txBusy := true }

/-- The load of a frame `encode` is defined on. -/
theorem loadFrame_of_le {cmd : Byte} {p : List Byte} {s : State} (h : p.length ≤ 128) :
    loadFrame cmd p s = some (loaded cmd p s) := by
  unfold loadFrame
  rw [encodeFrame_of_le h]
  simp only
  rw [memWrite_of_le (by rw [length_frameImage]; show 0 + (p.length + 4) ≤ 132; omega)]
  simp only [length_frameImage]
  rfl

theorem loadFrame_eq_some {cmd : Byte} {p : List Byte} {s t : State} (h : loadFrame cmd p s = some t) :
    p.length ≤ 128 ∧ t = loaded cmd p s := by
  by_cases hp : p.length ≤ 128
  · rw [loadFrame_of_le hp] at h; exact ⟨hp, (Option.some.inj h).symm⟩
  · rw [loadFrame, encodeFrame_of_gt (by omega)] at h; exact absurd h (by simp)

/-- A reply against a busy serializer (R169). -/
theorem submitReply_of_busy {cmd : Byte} {p : List Byte} {s : State} (h : s.txBusy = true) :
    submitReply cmd p s = .next ((s.bump .txSkip).setReply (.skipped cmd p)) := if_pos h

/-- A reply against an idle serializer (R168). -/
theorem submitReply_of_idle {cmd : Byte} {p : List Byte} {s : State} (h : s.txBusy = false) (hp : p.length ≤ 128) :
    submitReply cmd p s = .next ((loaded cmd p s).setReply (.submitted cmd p)) := by
  rw [submitReply, if_neg (by simp [h]), loadFrame_of_le hp]

/-- Everything a reply submission can do when it answers a next state. -/
theorem submitReply_next {cmd : Byte} {p : List Byte} {s t : State} (h : submitReply cmd p s = .next t) :
    (s.txBusy = true ∧ t = (s.bump .txSkip).setReply (.skipped cmd p)) ∨
      (s.txBusy = false ∧ p.length ≤ 128 ∧ t = (loaded cmd p s).setReply (.submitted cmd p)) := by
  unfold submitReply at h
  split at h
  · next hb => exact .inl ⟨hb, (Host.Outcome.next.inj h).symm⟩
  · next hb =>
    split at h
    · next u hu =>
      obtain ⟨hp, rfl⟩ := loadFrame_eq_some hu
      exact .inr ⟨by simpa using hb, hp, (Host.Outcome.next.inj h).symm⟩
    · exact absurd h (by simp)

/-! Flag conditions as propositions. -/

theorem lengthDue_iff (s : State) : s.lengthDue = true ↔ s.rxExpValid = false ∧ 4 ≤ s.rxN := by
  simp [State.lengthDue, Config.headerSize]

theorem frameComplete_iff (s : State) :
    s.frameComplete = true ↔ s.rxExpValid = true ∧ 4 + s.rxExp.toNat ≤ s.rxN := by
  simp [State.frameComplete, Config.headerSize]

theorem stallExpires_iff (s : State) : s.stallExpires = true ↔ s.cfg.stallLimit ≤ s.rxStall + 1 := by
  simp [State.stallExpires]

/-! Counters. -/

theorem get_bump_same (k : Counter) (c : Counters) : (c.bump k).get k = c.get k + 1 := by cases k <;> rfl

theorem get_bump_other {k k' : Counter} (h : k' ≠ k) (c : Counters) : (c.bump k).get k' = c.get k' := by
  cases k <;> cases k' <;> first | rfl | exact absurd rfl h

theorem cityPad_length {p : List Byte} (h : p.length ≤ 31) : (cityPad p).length = 32 := by
  simp only [cityPad, List.length_append, List.length_replicate, Config.cityBuf]; omega

/-- The dispatcher runs the instruction the opcode table selects for the frame (R151, 30_encoding section 7). -/
theorem dispatch_eq_exec (f : Frame) (s : State) :
    dispatch f s = exec (selectRow s.cfg f.command f.payload) s := by
  unfold dispatch selectRow
  split_ifs <;> rfl

end Sys2Proof.Machine
end

