-- ==== Sys2Proof/Laws/PerInstr.lean ====
section
/-! SUPPORT. Facts about every instruction as syntax, one lemma per constructor. `FrameImage`: what the encoder gives for an
instruction, if anything, is a valid frame (R81, R141). -/

namespace Sys2Proof.Laws.FrameImage

def Statement (i : Instr) : Prop :=
  ∀ (c : Cfg) (bs : List Byte), Sys2Proof.encode c i = some bs → validFrame c bs = true

theorem getWeather (p : List Byte) : Statement (.getWeather p) := fun _ _ h => validFrame_of_encodeFrame h
theorem getTime (p : List Byte) : Statement (.getTime p) := fun _ _ h => validFrame_of_encodeFrame h
theorem setTime (p : List Byte) : Statement (.setTime p) := fun _ _ h => validFrame_of_encodeFrame h
theorem setCity (p : List Byte) : Statement (.setCity p) := fun _ _ h => validFrame_of_encodeFrame h
theorem getForecast (p : List Byte) : Statement (.getForecast p) := fun _ _ h => validFrame_of_encodeFrame h
theorem systemStatusReq : Statement .systemStatusReq := fun _ _ h => validFrame_of_encodeFrame h
theorem systemStatusReport (p : List Byte) : Statement (.systemStatusReport p) := fun _ _ h => validFrame_of_encodeFrame h
theorem ack (p : List Byte) : Statement (.ack p) := fun _ _ h => validFrame_of_encodeFrame h
theorem nack (p : List Byte) : Statement (.nack p) := fun _ _ h => validFrame_of_encodeFrame h
theorem error (p : List Byte) : Statement (.error p) := fun _ _ h => validFrame_of_encodeFrame h
theorem unknownCommand (cmd : Byte) (p : List Byte) : Statement (.unknownCommand cmd p) :=
  fun _ _ h => validFrame_of_encodeFrame h
theorem rxByte (b : Byte) : Statement (.rxByte b) := fun _ _ h => nomatch h
theorem rxTick : Statement .rxTick := fun _ _ h => nomatch h
theorem txReq (cmd : Byte) (p : List Byte) : Statement (.txReq cmd p) := fun _ _ h => nomatch h
theorem txPop : Statement .txPop := fun _ _ h => nomatch h
theorem txAbort : Statement .txAbort := fun _ _ h => nomatch h
theorem forceRefreshClr : Statement .forceRefreshClr := fun _ _ h => nomatch h
theorem reset : Statement .reset := fun _ _ h => nomatch h
theorem xor8 (p : List Byte) : Statement (.xor8 p) := fun _ _ h => nomatch h
theorem encode (cmd : Byte) (p : List Byte) : Statement (.encode cmd p) := fun _ _ h => nomatch h

end Sys2Proof.Laws.FrameImage
end

