-- ==== Sys2Proof/Laws/Steps.lean ====
section
/-! SUPPORT. What each event and each frame can do when it answers a next state, said once (2.1 of the strategies): every
later proof cites these and unfolds no meaning. -/

namespace Sys2Proof.Machine

/-- Everything `step` can do when it answers a next state. -/
theorem step_next {s t : State} (h : step s = .next t) :
    s.cfg.wf = true ∧
      ((s.inputs = [] ∧ t = s.beginStep) ∨
        ∃ i rest, s.inputs = i :: rest ∧ exec i.event.instr (s.deliver i rest) = .next t) := by
  unfold step at h
  split at h
  · next hw =>
    refine ⟨hw, ?_⟩
    split at h
    · next hi => exact .inl ⟨hi, (Host.Outcome.next.inj h).symm⟩
    · next i rest hi => exact .inr ⟨i, rest, hi, h⟩
  · exact absurd h (by simp)

/-- The step of a pending event. -/
theorem step_of_input {s : State} {i : Input} {rest : List Input} (hw : s.cfg.wf = true) (hi : s.inputs = i :: rest) :
    step s = exec i.event.instr (s.deliver i rest) := by
  unfold step
  rw [if_pos hw, hi]

/-- R151: everything a dispatch can do when it answers a next state: one route is set, with the frame as received, and
then one of: nothing else; a drop's counter; the city and the flag; a reply. -/
theorem dispatch_next {f : Frame} {s t : State} (h : dispatch f s = .next t) :
    (∃ r, r ≠ .citySet ∧ t = routeTo r f.command f.payload s) ∨
      (∃ k, t = drop k f.command f.payload s) ∨
      (f.command = s.cfg.cmdSetCity ∧ s.cfg.role = .connectivity ∧ f.payload.length ≤ 31 ∧
        t = routeTo .citySet f.command f.payload
          { s with activeCity := s.activeCity.writeBytes 0 (cityPad f.payload), forceRefresh := true }) ∨
      ∃ r cmd p,
        ((s.cfg.role = .connectivity ∧ f.command = s.cfg.cmdGetWeather ∧ r = .weatherFetch ∧ cmd = s.cfg.cmdAck ∧ p = []) ∨
          (f.command = s.cfg.cmdSystemStatus ∧ f.payload = [] ∧ r = .statusReq ∧ cmd = s.cfg.cmdSystemStatus ∧
            p = statusRecord s.cfg s.env)) ∧
        submitReply cmd p (routeTo r f.command f.payload s) = .next t := by
  unfold dispatch at h
  split_ifs at h with h1 h2 h3 h4 h5 h6 h7 h8 h9 h10
  · unfold execGetWeather at h
    split at h
    · next hr => exact .inr (.inr (.inr ⟨_, _, _, .inl ⟨hr, h1, rfl, rfl, rfl⟩, h1 ▸ h⟩))
    · exact .inl ⟨_, by simp, h1 ▸ (Host.Outcome.next.inj h).symm⟩
  · exact .inr (.inl ⟨_, h2 ▸ (Host.Outcome.next.inj h).symm⟩)
  · exact .inr (.inl ⟨_, h3 ▸ (Host.Outcome.next.inj h).symm⟩)
  · unfold execSetCity at h
    split at h
    · exact .inr (.inl ⟨_, h4 ▸ (Host.Outcome.next.inj h).symm⟩)
    · next hr =>
      split at h
      · next hl =>
        split at h
        · next u hu =>
          obtain ⟨-, rfl⟩ := memWrite_eq_some hu
          exact .inr (.inr (.inl ⟨h4, hr, hl, h4 ▸ (Host.Outcome.next.inj h).symm⟩))
        · exact absurd h (by simp)
      · exact .inr (.inl ⟨_, h4 ▸ (Host.Outcome.next.inj h).symm⟩)
  · exact .inr (.inl ⟨_, h5 ▸ (Host.Outcome.next.inj h).symm⟩)
  · have h0 : f.payload = [] := List.length_eq_zero_iff.mp h7
    refine .inr (.inr (.inr ⟨_, _, _, .inr ⟨h6, h0, rfl, rfl, rfl⟩, ?_⟩))
    rw [h0, h6]
    exact h
  · exact .inl ⟨_, by simp, h6 ▸ (Host.Outcome.next.inj h).symm⟩
  · exact .inl ⟨_, by simp, h8 ▸ (Host.Outcome.next.inj h).symm⟩
  · exact .inl ⟨_, by simp, h9 ▸ (Host.Outcome.next.inj h).symm⟩
  · exact .inl ⟨_, by simp, h10 ▸ (Host.Outcome.next.inj h).symm⟩
  · exact .inr (.inl ⟨_, (Host.Outcome.next.inj h).symm⟩)

/-- R173: a dispatch always answers a next state. -/
theorem dispatch_total (f : Frame) (s : State) : ∃ t, dispatch f s = .next t := by
  have hsub : ∀ (cmd : Byte) (p : List Byte) (u : State), p.length ≤ 8 → ∃ t, submitReply cmd p u = .next t := by
    intro cmd p u hp
    cases hb : u.txBusy
    · exact ⟨_, submitReply_of_idle hb (by omega)⟩
    · exact ⟨_, submitReply_of_busy hb⟩
  unfold dispatch
  split_ifs
  · unfold execGetWeather
    split
    · exact hsub _ _ _ (by simp)
    · exact ⟨_, rfl⟩
  · exact ⟨_, rfl⟩
  · exact ⟨_, rfl⟩
  · unfold execSetCity
    split
    · exact ⟨_, rfl⟩
    · split
      · next hl =>
        rw [memWrite_of_le (by rw [cityPad_length hl]; exact Nat.le_refl 32)]
        exact ⟨_, rfl⟩
      · exact ⟨_, rfl⟩
  · exact ⟨_, rfl⟩
  · exact hsub _ _ _ (by simp [statusRecord])
  · exact ⟨_, rfl⟩
  · exact ⟨_, rfl⟩
  · exact ⟨_, rfl⟩
  · exact ⟨_, rfl⟩
  · exact ⟨_, rfl⟩

/-- R55, R172: what every dispatch leaves as it is, and the one route it sets. -/
theorem dispatch_keeps {f : Frame} {s t : State} (h : dispatch f s = .next t) :
    (t.cfg = s.cfg ∧ t.env = s.env ∧ t.inputs = s.inputs) ∧
      (t.rxFsm = s.rxFsm ∧ t.rxN = s.rxN ∧ t.rxExpValid = s.rxExpValid ∧ t.rxExp = s.rxExp ∧ t.rxAcc = s.rxAcc ∧
        t.rxStall = s.rxStall) ∧
      (t.cnt.rxAccept = s.cnt.rxAccept ∧ t.cnt.rxStray = s.cnt.rxStray ∧ t.cnt.rxBadLen = s.cnt.rxBadLen ∧
        t.cnt.rxBadCks = s.cnt.rxBadCks ∧ t.cnt.rxTimeout = s.cnt.rxTimeout) ∧
      (t.cnt.txFrames = s.cnt.txFrames ∧ t.cnt.txBadLen = s.cnt.txBadLen ∧ t.cnt.txAbort = s.cnt.txAbort) ∧
      (t.out.rxEv = s.out.rxEv ∧ t.out.txEv = s.out.txEv ∧ t.out.fn = s.out.fn) ∧
      ∃ r, t.out.route = some ⟨r, f.command, lengthByte f.payload, f.payload⟩ := by
  have same : ∀ {r : Route}, some (RouteOut.mk r f.command (lengthByte f.payload) f.payload) =
      some ⟨r, f.command, lengthByte f.payload, f.payload⟩ := rfl
  rcases dispatch_next h with ⟨r, -, rfl⟩ | ⟨k, rfl⟩ | ⟨-, -, -, rfl⟩ | ⟨r, cmd, p, -, hs⟩
  · exact ⟨⟨rfl, rfl, rfl⟩, ⟨rfl, rfl, rfl, rfl, rfl, rfl⟩, ⟨rfl, rfl, rfl, rfl, rfl⟩, ⟨rfl, rfl, rfl⟩, ⟨rfl, rfl, rfl⟩, _, same⟩
  · cases k <;>
      exact ⟨⟨rfl, rfl, rfl⟩, ⟨rfl, rfl, rfl, rfl, rfl, rfl⟩, ⟨rfl, rfl, rfl, rfl, rfl⟩, ⟨rfl, rfl, rfl⟩, ⟨rfl, rfl, rfl⟩, _, same⟩
  · exact ⟨⟨rfl, rfl, rfl⟩, ⟨rfl, rfl, rfl, rfl, rfl, rfl⟩, ⟨rfl, rfl, rfl, rfl, rfl⟩, ⟨rfl, rfl, rfl⟩, ⟨rfl, rfl, rfl⟩, _, same⟩
  · rcases submitReply_next hs with ⟨-, rfl⟩ | ⟨-, -, rfl⟩ <;>
      exact ⟨⟨rfl, rfl, rfl⟩, ⟨rfl, rfl, rfl, rfl, rfl, rfl⟩, ⟨rfl, rfl, rfl, rfl, rfl⟩, ⟨rfl, rfl, rfl⟩, ⟨rfl, rfl, rfl⟩, _, same⟩

/-- R139, R168, R169: a dispatch either leaves the serializer as it is, or finds it idle and submits one reply. -/
theorem dispatch_serializer {f : Frame} {s t : State} (h : dispatch f s = .next t) :
    (t.txBusy = s.txBusy ∧ t.txBuf = s.txBuf ∧ t.txN = s.txN ∧ t.txIdx = s.txIdx ∧
        ∀ cmd p, t.out.reply ≠ some (.submitted cmd p)) ∨
      (s.txBusy = false ∧ ∃ cmd p, p.length ≤ 8 ∧ t.out.reply = some (.submitted cmd p) ∧ t.txBusy = true ∧
        t.txBuf = s.txBuf.writeBytes 0 (frameImage s.cfg cmd p) ∧ t.txN = p.length + 4 ∧ t.txIdx = 0 ∧
        t.activeCity = s.activeCity ∧ t.forceRefresh = s.forceRefresh ∧ t.cnt = s.cnt) := by
  rcases dispatch_next h with ⟨r, -, rfl⟩ | ⟨k, rfl⟩ | ⟨-, -, -, rfl⟩ | ⟨r, cmd, p, hp, hs⟩
  · exact .inl ⟨rfl, rfl, rfl, rfl, by simp [routeTo]⟩
  · exact .inl ⟨rfl, rfl, rfl, rfl, by simp [drop, routeTo]⟩
  · exact .inl ⟨rfl, rfl, rfl, rfl, by simp [routeTo]⟩
  · rcases submitReply_next hs with ⟨-, rfl⟩ | ⟨hb, -, rfl⟩
    · exact .inl ⟨rfl, rfl, rfl, rfl, by simp⟩
    · refine .inr ⟨hb, cmd, p, ?_, rfl, rfl, rfl, rfl, rfl, rfl, rfl, rfl⟩
      rcases hp with ⟨-, -, -, -, rfl⟩ | ⟨-, -, -, -, rfl⟩ <;> simp [statusRecord]

/-- R19, R20, R157: a dispatch writes the city register and the flag by its set-city route only. -/
theorem dispatch_city {f : Frame} {s t : State} (h : dispatch f s = .next t) :
    (t.activeCity = s.activeCity ∧ t.forceRefresh = s.forceRefresh ∧
        ∀ c l p, t.out.route ≠ some ⟨.citySet, c, l, p⟩) ∨
      (s.cfg.role = .connectivity ∧ f.command = s.cfg.cmdSetCity ∧ f.payload.length ≤ 31 ∧
        t.activeCity = s.activeCity.writeBytes 0 (cityPad f.payload) ∧ t.forceRefresh = true ∧ t.cnt = s.cnt ∧
        t.out.route = some ⟨.citySet, f.command, lengthByte f.payload, f.payload⟩) := by
  rcases dispatch_next h with ⟨r, hr, rfl⟩ | ⟨k, rfl⟩ | ⟨hc, hr, hl, rfl⟩ | ⟨r, cmd, p, hp, hs⟩
  · exact .inl ⟨rfl, rfl, by simp [routeTo, hr]⟩
  · exact .inl ⟨rfl, rfl, by cases k <;> simp [drop, routeTo, DropCause.route]⟩
  · exact .inr ⟨hr, hc, hl, rfl, rfl, rfl, rfl⟩
  · have hr : r ≠ .citySet := by rcases hp with ⟨-, -, rfl, -, -⟩ | ⟨-, -, rfl, -, -⟩ <;> simp
    rcases submitReply_next hs with ⟨-, rfl⟩ | ⟨-, -, rfl⟩
    · exact .inl ⟨rfl, rfl, by simp [routeTo, hr]⟩
    · exact .inl ⟨rfl, rfl, by simp [routeTo, hr, loaded]⟩

/-- R109: what every acceptance leaves, whatever the route. -/
theorem acceptFrame_keeps {f : Frame} {s t : State} (h : acceptFrame f s = .next t) :
    (t.cfg = s.cfg ∧ t.env = s.env ∧ t.inputs = s.inputs) ∧
      (t.rxFsm = .idle ∧ t.rxN = 0 ∧ t.rxExpValid = false ∧ t.rxExp = s.rxExp ∧ t.rxAcc = s.rxAcc ∧ t.rxStall = 0) ∧
      (t.cnt.rxAccept = s.cnt.rxAccept + 1 ∧ t.cnt.rxStray = s.cnt.rxStray ∧ t.cnt.rxBadLen = s.cnt.rxBadLen ∧
        t.cnt.rxBadCks = s.cnt.rxBadCks ∧ t.cnt.rxTimeout = s.cnt.rxTimeout) ∧
      (t.cnt.txFrames = s.cnt.txFrames ∧ t.cnt.txBadLen = s.cnt.txBadLen ∧ t.cnt.txAbort = s.cnt.txAbort) ∧
      (t.out.rxEv = some (.accepted f) ∧ t.out.txEv = s.out.txEv ∧ t.out.fn = s.out.fn) ∧
      ∃ r, t.out.route = some ⟨r, f.command, lengthByte f.payload, f.payload⟩ := dispatch_keeps h

/-- R109: an acceptance always answers a next state. -/
theorem acceptFrame_total (f : Frame) (s : State) : ∃ t, acceptFrame f s = .next t := dispatch_total _ _

/-- A complete frame whose payload lies inside the accumulator is accepted or discarded (R107 to R110). -/
theorem completeFrame_of_le {s : State} (h : (s.rxAcc.read 2).toNat ≤ 128) :
    completeFrame s =
      if verify (s.rxAcc.readBytes 4 (s.rxAcc.read 2).toNat) (s.rxAcc.read 3) then
        acceptFrame ⟨s.rxAcc.read 1, s.rxAcc.read 2, s.rxAcc.read 3, s.rxAcc.readBytes 4 (s.rxAcc.read 2).toNat⟩ s
      else .next (discardFrame .badChecksum s) := by
  unfold completeFrame
  rw [extractFrame_of_le h]
  simp [zextLength, Config.maxPayload, h]

/-- Everything the rules R104 to R110 can do after an append, when they answer a next state. -/
theorem afterAppend_next {s t : State} (h : afterAppend s = .next t) :
    (s.lengthDue = true ∧ 128 < (s.rxAcc.read 2).toNat ∧ t = discardFrame .badLength s) ∨
      ∃ u : State,
        ((s.lengthDue = true ∧ (s.rxAcc.read 2).toNat ≤ 128 ∧
            u = { s with rxExp := s.rxAcc.read 2, rxExpValid := true }) ∨ (s.lengthDue = false ∧ u = s)) ∧
        ((u.frameComplete = false ∧ t = u.setRxEv .stored) ∨
          (u.frameComplete = true ∧ ∃ f, extractFrame u = some f ∧
            ((verify f.payload f.checksum = true ∧ acceptFrame f u = .next t) ∨
              (verify f.payload f.checksum = false ∧ t = discardFrame .badChecksum u)))) := by
  have hstore : ∀ u : State, storeOrComplete u = .next t →
      (u.frameComplete = false ∧ t = u.setRxEv .stored) ∨
        (u.frameComplete = true ∧ ∃ f, extractFrame u = some f ∧
          ((verify f.payload f.checksum = true ∧ acceptFrame f u = .next t) ∨
            (verify f.payload f.checksum = false ∧ t = discardFrame .badChecksum u))) := by
    intro u hu
    unfold storeOrComplete at hu
    split at hu
    · next hc =>
      refine .inr ⟨hc, ?_⟩
      unfold completeFrame at hu
      split at hu
      · exact absurd hu (by simp)
      · next f hf =>
        have hl : zextLength f.length ≤ 128 := by
          obtain ⟨hle, rfl⟩ := extractFrame_eq_some hf
          exact hle
        refine ⟨f, hf, ?_⟩
        cases hv : verify f.payload f.checksum
        · rw [hv, if_neg (by simp)] at hu
          exact .inr ⟨rfl, (Host.Outcome.next.inj hu).symm⟩
        · rw [hv, if_pos (by simpa using hl)] at hu
          exact .inl ⟨rfl, hu⟩
    · next hc => exact .inl ⟨by simpa using hc, (Host.Outcome.next.inj hu).symm⟩
  unfold afterAppend at h
  split at h
  · next hd =>
    split at h
    · next hl => exact .inl ⟨hd, hl, (Host.Outcome.next.inj h).symm⟩
    · next hl => exact .inr ⟨_, .inl ⟨hd, Nat.not_lt.mp hl, rfl⟩, hstore _ h⟩
  · next hd => exact .inr ⟨s, .inr ⟨by simpa using hd, rfl⟩, hstore _ h⟩

/-- The state after the append of R103, at the start of an `RX_BYTE` step. -/
def appended (b : Byte) (s : State) : State :=
  { s with rxAcc := s.rxAcc.write s.rxN b, rxN := s.rxN + 1, rxStall := 0, out := Out.silent }

/-- The state after R101. -/
def startedFrame (b : Byte) (s : State) : State :=
  { s with
    rxAcc := s.rxAcc.write 0 b
    rxN := 1
    rxExpValid := false
    rxStall := 0
    rxFsm := .accumulating
    out := { Out.silent with rxEv := some .started } }

/-- R100: everything an `RX_BYTE` can do when it answers a next state. -/
theorem execRxByte_next {b : Byte} {s t : State} (h : execRxByte b s = .next t) :
    (s.rxFsm = .idle ∧ b = s.cfg.start ∧ t = startedFrame b s) ∨
      (s.rxFsm = .idle ∧ b ≠ s.cfg.start ∧ t = strayByte b s.beginStep) ∨
      (s.rxFsm = .accumulating ∧ s.rxN < 132 ∧ afterAppend (appended b s) = .next t) := by
  unfold execRxByte at h
  split at h
  · next hf =>
    split at h
    · next hb =>
      unfold frameStart at h
      rw [memWrite_of_le (show 0 + [b].length ≤ Space.rxAcc.size by simp [Space.size])] at h
      exact .inl ⟨hf, hb, (Host.Outcome.next.inj h).symm⟩
    · next hb => exact .inr (.inl ⟨hf, hb, (Host.Outcome.next.inj h).symm⟩)
  · next hf =>
    split at h
    · exact absurd h (by simp)
    · next u hu =>
      obtain ⟨hn, rfl⟩ := appendByte_eq_some hu
      exact .inr (.inr ⟨hf, hn, h⟩)

/-- The state after the append and, where it was due, the latch of the length (R103, R104). -/
def latched (b exp : Byte) (valid : Bool) (s : State) : State :=
  { appended b s with rxExp := exp, rxExpValid := valid }

/-- R100, with the four ends of an append side by side: length rejected, stored, accepted, checksum rejected. -/
theorem execRxByte_shape {b : Byte} {s t : State} (h : execRxByte b s = .next t) :
    (s.rxFsm = .idle ∧ b = s.cfg.start ∧ t = startedFrame b s) ∨
      (s.rxFsm = .idle ∧ b ≠ s.cfg.start ∧ t = strayByte b s.beginStep) ∨
      (s.rxFsm = .accumulating ∧ s.rxN < 132 ∧ ∃ exp valid,
        (exp = s.rxExp ∧ valid = s.rxExpValid ∨ exp = (s.rxAcc.write s.rxN b).read 2 ∧ valid = true) ∧
        (t = discardFrame .badLength (latched b exp valid s) ∨ t = (latched b exp valid s).setRxEv .stored ∨
          t = discardFrame .badChecksum (latched b exp valid s) ∨
          ∃ f, extractFrame (latched b exp valid s) = some f ∧ verify f.payload f.checksum = true ∧
            acceptFrame f (latched b exp valid s) = .next t)) := by
  rcases execRxByte_next h with h | h | ⟨hf, hn, ha⟩
  · exact .inl h
  · exact .inr (.inl h)
  · refine .inr (.inr ⟨hf, hn, ?_⟩)
    have e : latched b s.rxExp s.rxExpValid s = appended b s := rfl
    rcases afterAppend_next ha with ⟨-, -, rfl⟩ | ⟨u, hu, hc⟩
    · exact ⟨s.rxExp, s.rxExpValid, .inl ⟨rfl, rfl⟩, .inl (by rw [e])⟩
    · obtain ⟨exp, valid, hev, rfl⟩ : ∃ exp valid,
          (exp = s.rxExp ∧ valid = s.rxExpValid ∨ exp = (s.rxAcc.write s.rxN b).read 2 ∧ valid = true) ∧
          u = latched b exp valid s := by
        rcases hu with ⟨-, -, rfl⟩ | ⟨-, rfl⟩
        · exact ⟨_, true, .inr ⟨rfl, rfl⟩, rfl⟩
        · exact ⟨s.rxExp, s.rxExpValid, .inl ⟨rfl, rfl⟩, rfl⟩
      refine ⟨exp, valid, hev, ?_⟩
      rcases hc with ⟨-, rfl⟩ | ⟨-, f, hf, ⟨hv, h⟩ | ⟨-, rfl⟩⟩
      · exact .inr (.inl rfl)
      · exact .inr (.inr (.inr ⟨f, hf, hv, h⟩))
      · exact .inr (.inr (.inl rfl))

/-- R101. -/
theorem execRxByte_start {b : Byte} {s : State} (hf : s.rxFsm = .idle) (hb : b = s.cfg.start) :
    execRxByte b s = .next (startedFrame b s) := by
  unfold execRxByte
  rw [hf]
  simp only
  rw [if_pos hb, frameStart, memWrite_of_le (show 0 + [b].length ≤ Space.rxAcc.size by simp [Space.size])]
  rfl

/-- R103 and what follows it. -/
theorem execRxByte_append {b : Byte} {s : State} (hf : s.rxFsm = .accumulating) (hn : s.rxN < 132) :
    execRxByte b s = afterAppend (appended b s) := by
  unfold execRxByte
  rw [hf]
  simp only
  rw [appendByte_of_lt (show s.beginStep.rxN < 132 from hn)]
  rfl

/-- R114, R115: everything an `RX_TICK` can do. -/
theorem execRxTick_next {s t : State} (h : execRxTick s = .next t) :
    (s.rxFsm = .idle ∧ t = s.beginStep) ∨
      (s.rxFsm = .accumulating ∧ s.cfg.stallLimit ≤ s.rxStall + 1 ∧ t = discardFrame .timeout s.beginStep) ∨
      (s.rxFsm = .accumulating ∧ s.rxStall + 1 < s.cfg.stallLimit ∧
        t = { s.beginStep with rxStall := s.rxStall + 1 }) := by
  unfold execRxTick at h
  split at h
  · next hf => exact .inl ⟨hf, (Host.Outcome.next.inj h).symm⟩
  · next hf =>
    split at h
    · next he => exact .inr (.inl ⟨hf, by simpa [State.stallExpires] using he, (Host.Outcome.next.inj h).symm⟩)
    · next he => exact .inr (.inr ⟨hf, by simpa [State.stallExpires] using he, (Host.Outcome.next.inj h).symm⟩)

/-- R132 to R134: everything a `TX_REQ` can do when it answers a next state. -/
theorem execTxReq_next {cmd : Byte} {p : List Byte} {s t : State} (h : execTxReq cmd p s = .next t) :
    (128 < p.length ∧ t = refuse .txBadLength s.beginStep) ∨
      (p.length ≤ 128 ∧ s.txBusy = true ∧ t = refuse .txBusy s.beginStep) ∨
      (p.length ≤ 128 ∧ s.txBusy = false ∧ t = (loaded cmd p s.beginStep).setTxEv .taken) := by
  unfold execTxReq at h
  split at h
  · next hl => exact .inl ⟨hl, (Host.Outcome.next.inj h).symm⟩
  · next hl =>
    have hl' : p.length ≤ 128 := Nat.not_lt.mp hl
    split at h
    · next hb => exact .inr (.inl ⟨hl', hb, (Host.Outcome.next.inj h).symm⟩)
    · next hb =>
      rw [loadFrame_of_le hl'] at h
      exact .inr (.inr ⟨hl', by simpa using hb, (Host.Outcome.next.inj h).symm⟩)

/-- R135 to R137: everything a `TX_POP` can do when it answers a next state. -/
theorem execTxPop_next {s t : State} (h : execTxPop s = .next t) :
    (s.txBusy = false ∧ t = s.beginStep.setTxEv .empty) ∨
      (s.txBusy = true ∧ s.txIdx < 132 ∧ s.txIdx + 1 < s.txN ∧
        t = { s.beginStep with txIdx := s.txIdx + 1 }.setTxEv (.byte (s.txBuf.read s.txIdx) false)) ∨
      (s.txBusy = true ∧ s.txIdx < 132 ∧ s.txIdx + 1 = s.txN ∧
        t = ({ s.beginStep with txBusy := false }.bump .txFrames).setTxEv (.byte (s.txBuf.read s.txIdx) true)) := by
  unfold execTxPop at h
  split at h
  · next hb =>
    split at h
    · exact absurd h (by simp)
    · next b hp =>
      obtain ⟨hlt, rfl⟩ := pendingByte_eq_some hp
      split at h
      · next hn => exact .inr (.inl ⟨hb, hlt, hn, (Host.Outcome.next.inj h).symm⟩)
      · split at h
        · next hn => exact .inr (.inr ⟨hb, hlt, hn, (Host.Outcome.next.inj h).symm⟩)
        · exact absurd h (by simp)
  · next hb => exact .inl ⟨by simpa using hb, (Host.Outcome.next.inj h).symm⟩

/-- R138: everything a `TX_ABORT` can do. -/
theorem execTxAbort_next {s t : State} (h : execTxAbort s = .next t) :
    (s.txBusy = true ∧ t = ({ s.beginStep with txBusy := false }.bump .txAbort).setTxEv .aborted) ∨
      (s.txBusy = false ∧ t = s.beginStep) := by
  unfold execTxAbort at h
  split at h
  · next hb => exact .inl ⟨hb, (Host.Outcome.next.inj h).symm⟩
  · next hb => exact .inr ⟨by simpa using hb, (Host.Outcome.next.inj h).symm⟩

/-! A run's first step, for any machine; `M` is `core` where the steps are those of this block. -/

theorem run_of_next {M : Host.Core} {k : Nat} {s t : M.State} (h : M.step s = .next t) :
    M.run (k + 1) s = M.run k t := by rw [Host.Core.run, h]

theorem run_of_fault {M : Host.Core} {k : Nat} {s : M.State} {r : M.Fault} (h : M.step s = .fault r) :
    M.run (k + 1) s = .fault r := by rw [Host.Core.run, h]

theorem run_of_refused {M : Host.Core} {k : Nat} {s : M.State} {r : M.Refusal} (h : M.step s = .refused r) :
    M.run (k + 1) s = .refused r := by rw [Host.Core.run, h]

/-! The first step of a trace. -/

theorem trace_of_next {n : Nat} {s t u : State} {os : List Out} (h : step s = .next t) (ht : trace n t = .next (os, u)) :
    trace (n + 1) s = .next (t.out :: os, u) := by simp only [trace, h, ht]

/-! The link. -/

/-- The step of an event made the next delivery is its meaning. -/
theorem step_presentEvent {e : Event} {s : State} (hw : s.cfg.wf = true) : step (s.presentEvent e) = exec e.instr s :=
  step_of_input (s := s.presentEvent e) hw rfl

/-- A byte crosses where the sender pops one and the receiver takes it. -/
theorem crossByte_of_next {tx rx s t : State} {b : Byte} {last : Bool} (htx : tx.cfg.wf = true) (hrx : rx.cfg.wf = true)
    (hs : exec .txPop tx = .next s) (hb : s.out.txEv = some (.byte b last)) (ht : exec (.rxByte b) rx = .next t) :
    crossByte tx rx = .next (s, t) := by
  rw [crossByte, step_presentEvent htx]
  simp only [Event.instr, hs, Out.wireByte, hb]
  rw [step_presentEvent hrx]
  simp only [Event.instr, ht]

/-- Everything a crossing can do when it answers next states. -/
theorem crossByte_next {tx rx s t : State} (h : crossByte tx rx = .next (s, t)) :
    step (tx.presentEvent .txPop) = .next s ∧
      ((s.out.wireByte = none ∧ t = rx) ∨ ∃ b, s.out.wireByte = some b ∧ step (rx.presentEvent (.rxByte b)) = .next t) := by
  unfold crossByte at h
  split at h
  · cases h
  · cases h
  · next u hu =>
    split at h
    · next hw =>
      obtain ⟨rfl, rfl⟩ := Prod.mk.inj (Host.Outcome.next.inj h)
      exact ⟨hu, .inl ⟨hw, rfl⟩⟩
    · next b hw =>
      split at h
      · next v hv =>
        obtain ⟨rfl, rfl⟩ := Prod.mk.inj (Host.Outcome.next.inj h)
        exact ⟨hu, .inr ⟨b, hw, hv⟩⟩
      · cases h
      · cases h

/-- A pop and a receive step leave the parameters, so they leave the two ends joined. -/
theorem execTxPop_cfg {s t : State} (h : execTxPop s = .next t) : t.cfg = s.cfg := by
  rcases execTxPop_next h with ⟨-, rfl⟩ | ⟨-, -, -, rfl⟩ | ⟨-, -, -, rfl⟩ <;> rfl

theorem execRxByte_cfg {b : Byte} {s t : State} (h : execRxByte b s = .next t) : t.cfg = s.cfg := by
  rcases execRxByte_shape h with ⟨-, -, rfl⟩ | ⟨-, -, rfl⟩ | ⟨-, -, exp, valid, -, rfl | rfl | rfl | ⟨f, -, -, ha⟩⟩
  · rfl
  · rfl
  · rfl
  · rfl
  · rfl
  · exact (acceptFrame_keeps ha).1.1

theorem joined_iff (q : Pair) :
    q.joined = true ↔
      q.near.cfg.role ≠ q.far.cfg.role ∧ q.near.cfg.start = q.far.cfg.start ∧ q.near.cfg.ids = q.far.cfg.ids := by
  simp [Pair.joined, and_assoc]

/-- A transfer in either direction, said of its sender and its receiver. -/
theorem transfer_of_cross {q : Pair} {d : Bool} {s t : State} (hn : q.near.cfg.wf = true) (hf : q.far.cfg.wf = true)
    (hj : q.joined = true) (h : crossByte (q.sender d) (q.receiver d) = .next (s, t)) :
    ∃ q', q.transfer d = .next q' ∧ q'.sender d = s ∧ q'.receiver d = t ∧ q'.sender (!d) = t ∧ q'.receiver (!d) = s := by
  unfold Pair.transfer
  rw [if_pos (by rw [hn, hf]; rfl), if_pos hj]
  cases d
  · rw [if_neg (by simp), show crossByte q.far q.near = .next (s, t) from h]
    exact ⟨_, rfl, rfl, rfl, rfl, rfl⟩
  · rw [if_pos rfl, show crossByte q.near q.far = .next (s, t) from h]
    exact ⟨_, rfl, rfl, rfl, rfl, rfl⟩

theorem transfers_of_next {d : Bool} {ds : List Bool} {q q' : Pair} (h : q.transfer d = .next q') :
    Pair.transfers (d :: ds) q = Pair.transfers ds q' := by simp only [Pair.transfers, h]

theorem transfers_append {ds es : List Bool} {q q' : Pair} (h : Pair.transfers ds q = .next q') :
    Pair.transfers (ds ++ es) q = Pair.transfers es q' := by
  induction ds generalizing q with
  | nil => rw [Host.Outcome.next.inj h]; rfl
  | cons d ds ih =>
    rw [List.cons_append]
    unfold Pair.transfers at h
    split at h
    · next hq => rw [transfers_of_next hq]; exact ih h
    · cases h
    · cases h

end Sys2Proof.Machine
end

