-- ==== Sys2Proof/Tests/Slice0.lean ====
section
/-! SUPPORT. The model's own tests: ill-formed terms refused, words written out from the spec's encodings, one step per
instruction, and a witness for the hypotheses of each statement. Expected values come from spec/95_test_vectors.md (V and S
numbers) or are worked out by hand from the rule named. -/

namespace Sys2Proof.Tests

open Sys2Proof.Machine Sys2Proof.Spec

/-- The next state of an outcome, if it is one. -/
def after : Host.Outcome State Fault Refusal → Option State
  | .next s => some s
  | .fault _ => none
  | .refused _ => none

/-- The outcome is a next state that passes a check. -/
def holdsAfter (o : Host.Outcome State Fault Refusal) (q : State → Bool) : Bool := (after o).any q

theorem next_of_holdsAfter {o : Host.Outcome State Fault Refusal} {q : State → Bool} (h : holdsAfter o q = true) :
    ∃ t, o = .next t ∧ q t = true := by
  cases o with
  | next t => exact ⟨t, rfl, h⟩
  | fault r => exact absurd h (by simp [holdsAfter, after])
  | refused r => exact absurd h (by simp [holdsAfter, after])

/-- A check of a two-step trace. -/
def holdsTrace (n : Nat) (s : State) (q : List Out → State → Bool) : Bool :=
  match trace n s with
  | .next (os, t) => q os t
  | .fault _ => false
  | .refused _ => false

theorem next_of_holdsTrace {n : Nat} {s : State} {q : List Out → State → Bool} (h : holdsTrace n s q = true) :
    ∃ os t, trace n s = .next (os, t) ∧ q os t = true := by
  unfold holdsTrace at h
  split at h
  · next os t ht => exact ⟨os, t, ht, h⟩
  · cases h
  · cases h

/-- 95 conventions: `E0`. -/
def e0 : Env := ⟨true, false, true, 0x57, 0x00012345⟩

def base : State := { State.reset with env := e0 }

def withRole (r : Role) (s : State) : State := { s with cfg := { s.cfg with role := r } }

/-- The decoder between the bytes of a frame, `bs` collected so far. -/
def collecting (bs : List Byte) (s : State) : State :=
  { s with
    rxFsm := .accumulating, rxN := bs.length, rxExpValid := decide (4 ≤ bs.length), rxExp := bs.getD 2 0,
    rxAcc := Memory.ofBytes bs }

/-- The serializer with a frame pending, `k` bytes of it handed over. -/
def sending (bs : List Byte) (k : Nat) (s : State) : State :=
  { s with txBusy := true, txBuf := Memory.ofBytes bs, txN := bs.length, txIdx := k }

def pending (es : List Event) (s : State) : State := { s with inputs := es.map fun e => ⟨e, e0⟩ }

def bytes (n : Nat) (b : Byte) : List Byte := List.replicate n b

/-! ### WellFormed: an ill-formed term for each check -/

theorem test_wf_getWeather_long : (Instr.getWeather (bytes 129 0)).wf Cfg.default = false := by decide +kernel
theorem test_wf_getTime_long : (Instr.getTime (bytes 129 0)).wf Cfg.default = false := by decide +kernel
theorem test_wf_setTime_long : (Instr.setTime (bytes 129 0)).wf Cfg.default = false := by decide +kernel
theorem test_wf_setCity_long : (Instr.setCity (bytes 129 0)).wf Cfg.default = false := by decide +kernel
theorem test_wf_getForecast_long : (Instr.getForecast (bytes 129 0)).wf Cfg.default = false := by decide +kernel
theorem test_wf_report_empty : (Instr.systemStatusReport []).wf Cfg.default = false := by decide
theorem test_wf_report_long : (Instr.systemStatusReport (bytes 129 0)).wf Cfg.default = false := by decide +kernel
theorem test_wf_ack_long : (Instr.ack (bytes 129 0)).wf Cfg.default = false := by decide +kernel
theorem test_wf_nack_long : (Instr.nack (bytes 129 0)).wf Cfg.default = false := by decide +kernel
theorem test_wf_error_long : (Instr.error (bytes 129 0)).wf Cfg.default = false := by decide +kernel
theorem test_wf_unknown_known_id : (Instr.unknownCommand 0x05 []).wf Cfg.default = false := by decide
theorem test_wf_unknown_long : (Instr.unknownCommand 0x0A (bytes 129 0)).wf Cfg.default = false := by decide +kernel
theorem test_wf_txReq_long : (Instr.txReq 0 (bytes 256 0)).wf Cfg.default = false := by decide +kernel
theorem test_wf_txReq_longest : (Instr.txReq 0 (bytes 255 0)).wf Cfg.default = true := by decide +kernel
theorem test_wf_encode_long : (Instr.encode 0 (bytes 129 0)).wf Cfg.default = false := by decide +kernel
theorem test_cfg_default : Cfg.default.wf = true := by decide
theorem test_cfg_same_ids : { Cfg.default with cmdAck := 0x01 }.wf = false := by decide
theorem test_cfg_stall_zero : { Cfg.default with stallLimit := 0 }.wf = false := by decide
theorem test_cfg_stall_large : { Cfg.default with stallLimit := 65536 }.wf = false := by decide
theorem test_cfg_city_short : { Cfg.default with cityReset := bytes 31 0 }.wf = false := by decide
theorem test_cfg_city_last : { Cfg.default with cityReset := bytes 32 1 }.wf = false := by decide

/-! ### Decoding: every constructor's word, from 30 R60, R68 and the bytes of 95 -/

theorem test_decode_getWeather :
    decode Cfg.default [0xAA, 0x01, 0x03, 0x40, 0x41, 0x42, 0x43] = .ok (.getWeather [0x41, 0x42, 0x43], []) := by rfl
theorem test_decode_getTime : decode Cfg.default [0xAA, 0x02, 0x00, 0x00] = .ok (.getTime [], []) := by rfl
theorem test_decode_setTime :
    decode Cfg.default [0xAA, 0x03, 0x02, 0xF5, 0xA5, 0x50, 0x11] = .ok (.setTime [0xA5, 0x50], [0x11]) := by rfl
theorem test_decode_setCity :
    decode Cfg.default [0xAA, 0x04, 0x06, 0x3E, 0x42, 0x65, 0x72, 0x6C, 0x69, 0x6E] =
      .ok (.setCity [0x42, 0x65, 0x72, 0x6C, 0x69, 0x6E], []) := by rfl
theorem test_decode_getForecast : decode Cfg.default [0xAA, 0x05, 0x00, 0x00] = .ok (.getForecast [], []) := by rfl
theorem test_decode_statusReq : decode Cfg.default [0xAA, 0x06, 0x00, 0x00] = .ok (.systemStatusReq, []) := by rfl
theorem test_decode_statusReport :
    decode Cfg.default [0xAA, 0x06, 0x08, 0x30, 0x01, 0x00, 0x01, 0x57, 0x45, 0x23, 0x01, 0x00] =
      .ok (.systemStatusReport [0x01, 0x00, 0x01, 0x57, 0x45, 0x23, 0x01, 0x00], []) := by rfl
theorem test_decode_ack : decode Cfg.default [0xAA, 0x07, 0x00, 0x00] = .ok (.ack [], []) := by rfl
theorem test_decode_nack : decode Cfg.default [0xAA, 0x08, 0x00, 0x00] = .ok (.nack [], []) := by rfl
theorem test_decode_error :
    decode Cfg.default [0xAA, 0x09, 0x02, 0x74, 0x45, 0x31] = .ok (.error [0x45, 0x31], []) := by rfl
theorem test_decode_unknown : decode Cfg.default [0xAA, 0x0A, 0x00, 0x00] = .ok (.unknownCommand 0x0A [], []) := by rfl
theorem test_decode_unknown_start :
    decode Cfg.default [0xAA, 0xAA, 0x01, 0xAA, 0xAA] = .ok (.unknownCommand 0xAA [0xAA], []) := by rfl

theorem test_decode_badStart : decode Cfg.default [0x55, 0x06, 0x00, 0x00] = .error .badStart := by rfl
theorem test_decode_badLength : decode Cfg.default [0xAA, 0x04, 0x81, 0x00] = .error .badLength := by rfl
theorem test_decode_truncated : decode Cfg.default [0xAA, 0x01, 0x03, 0x40, 0x41, 0x42] = .error .truncated := by rfl
theorem test_decode_badChecksum : decode Cfg.default [0xAA, 0x07, 0x00, 0x01] = .error .badChecksum := by rfl

/-- V40, V41, V43, V44. -/
theorem test_encode_words :
    encode Cfg.default (.ack []) = some [0xAA, 0x07, 0x00, 0x00] ∧
      encode Cfg.default .systemStatusReq = some [0xAA, 0x06, 0x00, 0x00] ∧
      encode Cfg.default (.getWeather [0x41, 0x42, 0x43]) = some [0xAA, 0x01, 0x03, 0x40, 0x41, 0x42, 0x43] ∧
      encode Cfg.default (.setCity [0x42, 0x65, 0x72, 0x6C, 0x69, 0x6E]) =
        some [0xAA, 0x04, 0x06, 0x3E, 0x42, 0x65, 0x72, 0x6C, 0x69, 0x6E] ∧
      encode Cfg.default (.error [0x45, 0x31]) = some [0xAA, 0x09, 0x02, 0x74, 0x45, 0x31] ∧
      encode Cfg.default (.nack []) = some [0xAA, 0x08, 0x00, 0x00] ∧
      encode Cfg.default (.unknownCommand 0xAA [0xAA]) = some [0xAA, 0xAA, 0x01, 0xAA, 0xAA] ∧
      encode Cfg.default .txPop = none := by decide

/-- 30 R61 and section 7: the table's own words, zeros where a row leaves bits open. -/
theorem test_tableWords :
    decodeTableWord 32 0xAA010000 = some (.getWeather []) ∧ decodeTableWord 32 0xAA060000 = some .systemStatusReq ∧
      decodeTableWord 32 0xAA060100 = some (.systemStatusReport [0x00]) ∧
      decodeTableWord 32 0xAA090000 = some (.error []) ∧ decodeTableWord 32 0xAA000000 = some (.unknownCommand 0 []) ∧
      decodeTableWord 32 0x55010000 = none ∧ decodeTableWord 32 0xAA018100 = none ∧
      decodeTableWord 32 0xAA010001 = none := by decide +kernel

/-- No two words of the table with different rows match the same row first, but for the request, which precedes the
report (30 section 7). -/
theorem test_firstRow :
    (frameRows.map fun r => (firstRow r.pattern).map TableRow.mnemonic) =
      ["GET_WEATHER", "GET_TIME", "SET_TIME", "SET_CITY", "GET_FORECAST", "SYSTEM_STATUS_REQ", "SYSTEM_STATUS_REQ", "ACK",
          "NACK", "ERROR", "UNKNOWN_COMMAND"].map some := by decide

/-- The placed word runs in the next step: V68. -/
theorem test_withFetchWord :
    holdsAfter (step (State.reset.withFetchWord 32 0xAA020000)) (fun t =>
      t.out.route == some ⟨.unimplemented, 0x02, 0, []⟩ && t.cnt.dspUnimpl == 1 && t.cnt.rxAccept == 1) = true := by decide

/-! ### One step per instruction -/

/-- V6, V7, V15. -/
theorem test_xor8 :
    holdsAfter (exec (.xor8 [0x01, 0x00, 0x01, 0x57, 0x45, 0x23, 0x01, 0x00]) base) (fun t =>
      t.out.fn == some (.checksum 0x30) && t.cnt == base.cnt) = true := by decide
/-- V44. -/
theorem test_encode :
    holdsAfter (exec (.encode 0xAA [0xAA]) base) (fun t =>
      t.out.fn == some (.image [0xAA, 0xAA, 0x01, 0xAA, 0xAA]) && !t.txBusy) = true := by decide

/-- V66. -/
theorem test_getWeather_connectivity :
    holdsAfter (exec (.getWeather [0x41, 0x42, 0x43]) base) (fun t =>
      t.out.route == some ⟨.weatherFetch, 0x01, 3, [0x41, 0x42, 0x43]⟩ && t.out.reply == some (.submitted 0x07 []) &&
        t.txBuf.readBytes 0 4 == [0xAA, 0x07, 0x00, 0x00] && t.txN == 4 && t.txBusy) = true := by decide
/-- V67. -/
theorem test_getWeather_display :
    holdsAfter (exec (.getWeather []) (withRole .display base)) (fun t =>
      t.out.route == some ⟨.weatherData, 0x01, 0, []⟩ && t.out.reply == none && !t.txBusy) = true := by decide
/-- V68. -/
theorem test_getTime :
    holdsAfter (exec (.getTime []) base) (fun t =>
      t.out.route == some ⟨.unimplemented, 0x02, 0, []⟩ && t.cnt.dspUnimpl == 1) = true := by decide
/-- V68. -/
theorem test_setTime :
    holdsAfter (exec (.setTime []) base) (fun t =>
      t.out.route == some ⟨.unimplemented, 0x03, 0, []⟩ && t.cnt.dspUnimpl == 1) = true := by decide
/-- V68. -/
theorem test_getForecast :
    holdsAfter (exec (.getForecast []) base) (fun t =>
      t.out.route == some ⟨.unimplemented, 0x05, 0, []⟩ && t.cnt.dspUnimpl == 1) = true := by decide
/-- V60. -/
theorem test_setCity :
    holdsAfter (exec (.setCity [0x42, 0x65, 0x72, 0x6C, 0x69, 0x6E]) base) (fun t =>
      t.activeCity.readBytes 0 32 == [0x42, 0x65, 0x72, 0x6C, 0x69, 0x6E] ++ bytes 26 0 && t.forceRefresh &&
        t.out.reply == none && t.cityString == [0x42, 0x65, 0x72, 0x6C, 0x69, 0x6E]) = true := by decide
/-- V77: the role is tested before the length. -/
theorem test_setCity_display :
    holdsAfter (exec (.setCity (bytes 32 0x41)) (withRole .display base)) (fun t =>
      t.cnt.dspUnimpl == 1 && t.cnt.dspBadPayload == 0 && !t.forceRefresh) = true := by decide
/-- V70. -/
theorem test_statusReq :
    holdsAfter (exec .systemStatusReq base) (fun t =>
      t.txBuf.readBytes 0 12 == [0xAA, 0x06, 0x08, 0x30, 0x01, 0x00, 0x01, 0x57, 0x45, 0x23, 0x01, 0x00] &&
        t.txN == 12 && t.out.route == some ⟨.statusReq, 0x06, 0, []⟩) = true := by decide
/-- V73: battery 200 passes through, uptime least significant byte first. -/
theorem test_statusReq_uptime :
    holdsAfter (exec .systemStatusReq { base with env := ⟨true, true, true, 200, 0x01020304⟩ }) (fun t =>
      t.txBuf.readBytes 0 12 == [0xAA, 0x06, 0x08, 0xCD, 0x01, 0x01, 0x01, 0xC8, 0x04, 0x03, 0x02, 0x01]) = true := by
  decide
/-- V75. -/
theorem test_statusReport :
    holdsAfter (exec (.systemStatusReport [0x77]) base) (fun t =>
      t.out.route == some ⟨.statusReport, 0x06, 1, [0x77]⟩ && t.cnt == base.cnt && t.out.reply == none) = true := by decide
/-- V76. -/
theorem test_ack :
    holdsAfter (exec (.ack []) base) (fun t => t.out.route == some ⟨.ack, 0x07, 0, []⟩ && t.cnt == base.cnt) = true := by
  decide
/-- V76. -/
theorem test_nack :
    holdsAfter (exec (.nack []) base) (fun t => t.out.route == some ⟨.nack, 0x08, 0, []⟩ && t.cnt == base.cnt) = true := by
  decide
/-- V76. -/
theorem test_error :
    holdsAfter (exec (.error [0x45, 0x31]) base) (fun t =>
      t.out.route == some ⟨.error, 0x09, 2, [0x45, 0x31]⟩ && t.cnt == base.cnt) = true := by decide
/-- V69. -/
theorem test_unknown :
    holdsAfter (exec (.unknownCommand 0xFF []) base) (fun t =>
      t.out.route == some ⟨.unknown, 0xFF, 0, []⟩ && t.cnt.dspUnknown == 1) = true := by decide

/-- V20, S1: the fourth byte completes an empty frame, which is dispatched in the same step. -/
theorem test_rxByte_accepts :
    holdsAfter (exec (.rxByte 0x00) (collecting [0xAA, 0x06, 0x00] base)) (fun t =>
      t.out.rxEv == some (.accepted ⟨0x06, 0, 0x00, []⟩) && t.rxFsm == .idle && t.rxN == 0 && t.cnt.rxAccept == 1 &&
        t.out.route == some ⟨.statusReq, 0x06, 0, []⟩ &&
        t.out.reply == some (.submitted 0x06 [0x01, 0x00, 0x01, 0x57, 0x45, 0x23, 0x01, 0x00])) = true := by decide
/-- V21, S2. -/
theorem test_rxByte_badChecksum :
    holdsAfter (exec (.rxByte 0x43) (collecting [0xAA, 0x01, 0x03, 0x05, 0x41, 0x42] base)) (fun t =>
      t.out.rxEv == some (.discarded .badChecksum) && t.rxFsm == .idle && t.cnt.rxBadCks == 1 &&
        t.cnt.rxAccept == 0 && t.out.route == none) = true := by decide
/-- V37, the third tick. -/
theorem test_rxTick_expires :
    holdsAfter (exec .rxTick { collecting [0xAA, 0x01, 0x03, 0x40, 0x41] base with rxStall := 2 }) (fun t =>
      t.out.rxEv == some (.discarded .timeout) && t.rxFsm == .idle && t.rxStall == 0 && t.cnt.rxTimeout == 1) = true := by
  decide
/-- V37, the second tick. -/
theorem test_rxTick_counts :
    holdsAfter (exec .rxTick { collecting [0xAA, 0x01, 0x03, 0x40, 0x41] base with rxStall := 1 }) (fun t =>
      t.out == Out.silent && t.rxFsm == .accumulating && t.rxStall == 2 && t.rxN == 5) = true := by decide
/-- V45. -/
theorem test_txReq_taken :
    holdsAfter (exec (.txReq 0x01 [0x01, 0x02]) base) (fun t =>
      t.out.txEv == some .taken && t.txBuf.readBytes 0 6 == [0xAA, 0x01, 0x02, 0x03, 0x01, 0x02] && t.txN == 6 &&
        t.txIdx == 0 && t.txBusy) = true := by decide
/-- V47: a long payload is refused for its length even when busy. -/
theorem test_txReq_badLength :
    holdsAfter (exec (.txReq 0x01 (bytes 129 0)) (sending [0xAA, 0x01, 0x00, 0x00] 0 base)) (fun t =>
      t.out.txEv == some (.refused .txBadLength) && t.cnt.txBadLen == 1 && t.cnt.txSkip == 0 && t.txBusy) = true := by decide +kernel
/-- V45, the last pop. -/
theorem test_txPop_last :
    holdsAfter (exec .txPop (sending [0xAA, 0x01, 0x02, 0x03, 0x01, 0x02] 5 base)) (fun t =>
      t.out.txEv == some (.byte 0x02 true) && !t.txBusy && t.cnt.txFrames == 1) = true := by decide
/-- V50. -/
theorem test_txPop_empty :
    holdsAfter (exec .txPop base) (fun t => t.out.txEv == some .empty && { t with out := base.out } == base) = true := by
  decide
/-- V49. -/
theorem test_txAbort :
    holdsAfter (exec .txAbort (sending [0xAA, 0x01, 0x02, 0x03, 0x01, 0x02] 2 base)) (fun t =>
      t.out.txEv == some .aborted && !t.txBusy && t.cnt.txAbort == 1 && t.cnt.txFrames == 0) = true := by decide
/-- V83. -/
theorem test_forceRefreshClr :
    holdsAfter (exec .forceRefreshClr { base with forceRefresh := true, activeCity := Memory.ofBytes [0x42] }) (fun t =>
      !t.forceRefresh && t.activeCity == Memory.ofBytes [0x42]) = true := by decide
/-- V84. -/
theorem test_reset :
    holdsAfter (exec .reset (sending [0xAA, 0x01, 0x00, 0x00] 1 (collecting [0xAA, 0x01, 0x03] base))) (fun t =>
      t.rxFsm == .idle && t.rxN == 0 && !t.txBusy && t.cnt == Counters.zero && !t.forceRefresh &&
        t.activeCity.readBytes 0 32 == bytes 32 0 && t.out == Out.silent) = true := by decide

/-! ### Witnesses: each theorem's conclusion is the hypotheses of one statement, met together -/

/-- A step's next state exists. -/
theorem steps_of {s : State} (h : holdsAfter (step s) (fun _ => true) = true) : ∃ t, step s = .next t := by
  obtain ⟨t, ht, -⟩ := next_of_holdsAfter h
  exact ⟨t, ht⟩

theorem exec_of {i : Instr} {s : State} (h : holdsAfter (exec i s) (fun _ => true) = true) : ∃ t, exec i s = .next t := by
  obtain ⟨t, ht, -⟩ := next_of_holdsAfter h
  exact ⟨t, ht⟩

theorem witness_OddBitFlipsAreDetected :
    (([0x41, 0x42, 0x43] : List Byte).length = ([0x41, 0x42, 0x42] : List Byte).length ∧
        verify [0x41, 0x42, 0x43] 0x40 = true) ∧
      2 < ([0x41, 0x42, 0x43] : List Byte).length ∧ 7 < 8 := by decide

theorem witness_CancellingChangesAreUndetected :
    (0 < ([0x41, 0x42] : List Byte).length ∧ 1 < ([0x41, 0x42] : List Byte).length ∧ 0 ≠ 1) ∧
      ([0x41, 0x42] : List Byte).Perm [0x42, 0x41] := by decide

theorem witness_ValidFramesAreExactlyTheImages : (bytes 128 0xAA).length ≤ 128 := by decide +kernel

theorem witness_EncodeIsRefusedOutsideItsDomain : 128 < (bytes 129 0).length := by decide +kernel

theorem witness_FunctionRowsAnswerTheirResult : (bytes 128 1).length ≤ 128 := by decide +kernel

theorem witness_DecodeOfEncodeIsTheInstruction :
    Cfg.default.wf = true ∧ (Instr.unknownCommand 0x00 (bytes 128 1)).wf Cfg.default = true ∧
      (Instr.unknownCommand 0x00 (bytes 128 1)).isFrame = true := by decide +kernel

theorem witness_DecodeAcceptsOnlyImages :
    decode Cfg.default [0xAA, 0x06, 0x00, 0x00, 0x55] = .ok (.systemStatusReq, [0x55]) := by rfl

theorem witness_DecodedRowIsTheFirstMatch : (bytes 128 0).length ≤ 128 := by decide +kernel

theorem witness_StepRunsThePendingEvent :
    (pending [.txPop] base).cfg.wf = true ∧ (pending [.txPop] base).inputs = ⟨.txPop, e0⟩ :: [] := by decide

/-- One for each clause: an instance, and a pair of which either end is ill-formed. -/
theorem witness_IllFormedCfgIsRefused :
    { base with cfg := { Cfg.default with stallLimit := 0 } }.cfg.wf = false ∧
      (Pair.mk { base with cfg := { Cfg.default with stallLimit := 0 } } Pair.reset.far).near.cfg.wf = false ∧
      (Pair.mk base { Pair.reset.far with cfg := { Pair.reset.far.cfg with stallLimit := 65536 } }).far.cfg.wf = false := by
  decide

theorem witness_PlacedWordRunsItsInstruction :
    base.cfg = Cfg.default ∧ decodeTableWord 32 0xAA060100 = some (.systemStatusReport [0x00]) := by decide +kernel

theorem witness_StartByteBeginsAFrame : base.rxFsm = .idle ∧ (0xAA : Byte) = base.cfg.start := by decide

theorem witness_StrayByteIsCountedAndDiscarded : base.rxFsm = .idle ∧ (0xAB : Byte) ≠ base.cfg.start := by decide

/-- The three clauses at the ends of their ranges: two bytes collected; the fourth byte with the least and the greatest
length that is not complete; the last but one byte of the longest frame. -/
theorem witness_ByteInsideAFrameIsStored :
    ((collecting [0xAA, 0x01] base).rxFsm = .accumulating ∧ (collecting [0xAA, 0x01] base).rxExpValid = false ∧
        (collecting [0xAA, 0x01] base).rxN < 3) ∧
      (∀ L ∈ ([1, 128] : List Byte), (collecting [0xAA, 0x01, L] base).rxFsm = .accumulating ∧
        (collecting [0xAA, 0x01, L] base).rxExpValid = false ∧ 3 ≤ (collecting [0xAA, 0x01, L] base).rxN ∧
        (collecting [0xAA, 0x01, L] base).rxN ≤ 131 ∧ ((collecting [0xAA, 0x01, L] base).rxAcc.read 2).toNat ≤ 128 ∧
        (collecting [0xAA, 0x01, L] base).rxN + 1 < 4 + ((collecting [0xAA, 0x01, L] base).rxAcc.read 2).toNat) ∧
      ({ collecting [0xAA, 0x01, 128, 0] base with rxN := 130 }.rxExpValid = true ∧
        { collecting [0xAA, 0x01, 128, 0] base with rxN := 130 }.rxN ≤ 131 ∧
        { collecting [0xAA, 0x01, 128, 0] base with rxN := 130 }.rxN + 1 <
          4 + { collecting [0xAA, 0x01, 128, 0] base with rxN := 130 }.rxExp.toNat) := by decide

theorem witness_OversizedLengthIsRejectedAtTheFourthByte :
    (collecting [0xAA, 0x04, 0x81] base).rxFsm = .accumulating ∧
      (collecting [0xAA, 0x04, 0x81] base).rxExpValid = false ∧ 3 ≤ (collecting [0xAA, 0x04, 0x81] base).rxN ∧
      (collecting [0xAA, 0x04, 0x81] base).rxN ≤ 131 ∧
      128 < ((collecting [0xAA, 0x04, 0x81] base).rxAcc.read 2).toNat := by decide

theorem inv_collecting_six : (collecting [0xAA, 0x01, 0x03, 0x40, 0x41, 0x42] base).Inv :=
  ⟨by decide, by decide, by decide, by decide, by decide, by decide⟩

theorem inv_collecting_three : (collecting [0xAA, 0x04, 0x81] base).Inv :=
  ⟨by decide, by decide, by decide, by decide, by decide, by decide⟩

/-- One state between steps for each clause: a whole frame, a wrong checksum, an oversized length, an incomplete frame. -/
theorem witness_DecoderRefinesTheFrameFormat :
    ((collecting [0xAA, 0x01, 0x03, 0x40, 0x41, 0x42] base).Inv ∧ (collecting [0xAA, 0x04, 0x81] base).Inv) ∧
      (collecting [0xAA, 0x01, 0x03, 0x40, 0x41, 0x42] base).rxFsm = .accumulating ∧
      (collecting [0xAA, 0x04, 0x81] base).rxFsm = .accumulating ∧
      decode Cfg.default ((collecting [0xAA, 0x01, 0x03, 0x40, 0x41, 0x42] base).rxAcc.readBytes 0 6 ++ [0x43]) =
        .ok (.getWeather [0x41, 0x42, 0x43], []) ∧
      decode Cfg.default ((collecting [0xAA, 0x01, 0x03, 0x40, 0x41, 0x42] base).rxAcc.readBytes 0 6 ++ [0x42]) =
        .error .badChecksum ∧
      decode Cfg.default ((collecting [0xAA, 0x04, 0x81] base).rxAcc.readBytes 0 3 ++ [0x00]) = .error .badLength ∧
      ((collecting [0xAA] base).Inv ∧
        decode Cfg.default ((collecting [0xAA] base).rxAcc.readBytes 0 1 ++ [0x04]) = .error .truncated) :=
  ⟨⟨inv_collecting_six, inv_collecting_three⟩, rfl, rfl, rfl, rfl, rfl,
    ⟨by decide, by decide, by decide, by decide, by decide, by decide⟩, rfl⟩

/-- Below the bound by one, with the bound 3. -/
theorem witness_TickBelowTheBoundOnlyCounts :
    base.rxFsm = .idle ∧ { collecting [0xAA] base with rxStall := 1 }.rxFsm = .accumulating ∧
      { collecting [0xAA] base with rxStall := 1 }.rxStall + 1 < base.cfg.stallLimit := by decide

/-- At the bound: the bound 3, and the least bound 1 (V39). -/
theorem witness_TickAtTheBoundDiscards :
    ({ collecting [0xAA] base with rxStall := 2 }.rxFsm = .accumulating ∧ base.cfg.stallLimit ≤ 2 + 1) ∧
      (collecting [0xAA] base).rxFsm = .accumulating ∧
        { base.cfg with stallLimit := 1 }.stallLimit ≤ (collecting [0xAA] base).rxStall + 1 := by decide

theorem witness_RoundTripThroughTheDecoder :
    base.cfg.wf = true ∧ base.rxFsm = .idle ∧ ([] : List Byte).length ≤ 128 ∧
      { base with inputs := byteInputs (wire base.cfg 0x06 []) e0 }.inputs =
        byteInputs (wire base.cfg 0x06 []) e0 ++ [] := by decide

theorem witness_TransitionsAreExactlyThese :
    (pending [.rxByte 0xAA] base).inputs = ⟨.rxByte 0xAA, e0⟩ :: [] ∧ ∃ t, step (pending [.rxByte 0xAA] base) = .next t :=
  ⟨rfl, steps_of (by decide)⟩

theorem witness_RequestIsTaken : (bytes 128 0).length ≤ 128 ∧ base.txBusy = false := by decide +kernel

theorem witness_RequestIsRefused :
    ((bytes 128 0).length ≤ 128 ∧ (sending [0xAA, 0x01, 0x00, 0x00] 0 base).txBusy = true) ∧
      128 < (bytes 129 0).length := by decide +kernel

/-- The last byte but one and the last byte of the longest frame, and no frame. -/
theorem witness_PopHandsOverTheNextByte :
    ({ base with txBusy := true, txN := 132, txIdx := 130 }.txBusy = true ∧ 130 + 1 < 132 ∧ 130 < 132) ∧
      ({ base with txBusy := true, txN := 132, txIdx := 131 }.txBusy = true ∧ 131 + 1 = 132 ∧ 131 < 132) ∧
      base.txBusy = false := by decide

theorem witness_AbortFreesTheSerializer :
    (sending [0xAA, 0x01, 0x00, 0x00] 1 base).txBusy = true ∧ base.txBusy = false := by decide

theorem witness_SerializerSendsExactlyTheImage :
    base.cfg.wf = true ∧ base.txBusy = false ∧ ([] : List Byte).length ≤ 128 ∧
      (pending [.txReq 0x01 [], .txPop, .txPop, .txPop, .txPop] base).inputs =
        ⟨.txReq 0x01 [], e0⟩ :: (List.replicate (4 + ([] : List Byte).length) ⟨.txPop, e0⟩ ++ []) := by decide

theorem witness_PendingFrameIsNotDisturbed :
    (pending [.txReq 0x02 []] (sending [0xAA, 0x01, 0x00, 0x00] 1 base)).txBusy = true ∧
      ∃ t, step (pending [.txReq 0x02 []] (sending [0xAA, 0x01, 0x00, 0x00] 1 base)) = .next t :=
  ⟨rfl, steps_of (by decide)⟩

theorem witness_WeatherFrameByRole :
    (base.cfg.role = .connectivity ∧ base.txBusy = false) ∧
      ((sending [0xAA, 0x01, 0x00, 0x00] 0 base).cfg.role = .connectivity ∧
        (sending [0xAA, 0x01, 0x00, 0x00] 0 base).txBusy = true) ∧
      (withRole .display base).cfg.role = .display := by decide

theorem witness_ReplyIsSkippedWhenBusy :
    (Instr.getWeather []).isFrame = true ∧ (sending [0xAA, 0x01, 0x00, 0x00] 0 base).txBusy = true := by decide

theorem witness_SetCityStoresTheString :
    base.cfg.role = .connectivity ∧ (bytes 31 0x42).length ≤ 31 ∧ ([] : List Byte).length ≤ 31 := by decide

theorem witness_SetCityIsDropped :
    (base.cfg.role = .connectivity ∧ 32 ≤ (bytes 32 0x41).length) ∧ (withRole .display base).cfg.role = .display := by decide

theorem witness_StatusRequestIsAnswered :
    base.txBusy = false ∧ (sending [0xAA, 0x01, 0x00, 0x00] 0 base).txBusy = true := by decide

/-- A step that accepts a frame. -/
theorem witness_EveryAcceptedFrameHasOneRoute :
    ∃ t, step (pending [.rxByte 0x00] (collecting [0xAA, 0x07, 0x00] base)) = .next t ∧
      t.out.rxEv = some (.accepted ⟨0x07, 0, 0, []⟩) := by
  obtain ⟨t, ht, hq⟩ := next_of_holdsAfter (o := step (pending [.rxByte 0x00] (collecting [0xAA, 0x07, 0x00] base)))
    (q := fun t => decide (t.out.rxEv = some (.accepted ⟨0x07, 0, 0, []⟩))) (by decide)
  exact ⟨t, ht, by simpa using hq⟩

theorem witness_RepliesAreNotAnswered :
    (Instr.getWeather []).isFrame = true ∧ (withRole .display base).cfg.wf = true ∧
      (withRole .display base).cfg.ids = base.cfg.ids ∧
      ∃ t, exec (.getWeather []) base = .next t ∧ t.out.reply = some (.submitted 0x07 []) := by
  obtain ⟨t, ht, hq⟩ := next_of_holdsAfter (o := exec (.getWeather []) base)
    (q := fun t => decide (t.out.reply = some (.submitted 0x07 []))) (by decide)
  exact ⟨by decide, by decide, by decide, t, ht, by simpa using hq⟩

theorem witness_DispatchNeverFails : (Instr.setCity (bytes 32 0)).isFrame = true := by decide

theorem witness_ResetLeavesTheResetValues : (collecting [0xAA, 0x01] base).cfg.wf = true := by decide

theorem witness_StepKeepsTheInvariant :
    (pending [.rxByte 0x43] (collecting [0xAA, 0x01, 0x03, 0x40, 0x41, 0x42] base)).Inv ∧
      ∃ t, step (pending [.rxByte 0x43] (collecting [0xAA, 0x01, 0x03, 0x40, 0x41, 0x42] base)) = .next t :=
  ⟨⟨by decide, by decide, by decide, by decide, by decide, by decide⟩, steps_of (by decide)⟩

theorem witness_NoRunStops : (pending [.txPop] (sending [0xAA, 0x01, 0x00, 0x00] 3 base)).Inv :=
  ⟨by decide, by decide, by decide, by decide, by decide, by decide⟩

/-- The first offset past the buffer, a length field that is not the latched one, and the first offset past the frame. -/
theorem witness_ImpossibleOffsetsFault :
    ({ collecting [0xAA] base with rxN := 132 }.rxFsm = .accumulating ∧ 132 ≤ { collecting [0xAA] base with rxN := 132 }.rxN) ∧
      ({ collecting [0xAA, 0x01, 0x81, 0x00] base with rxExp := 1 }.rxFsm = .accumulating ∧
        { collecting [0xAA, 0x01, 0x81, 0x00] base with rxExp := 1 }.rxN ≤ 131 ∧
        { collecting [0xAA, 0x01, 0x81, 0x00] base with rxExp := 1 }.rxExpValid = true ∧
        4 + { collecting [0xAA, 0x01, 0x81, 0x00] base with rxExp := 1 }.rxExp.toNat ≤
          { collecting [0xAA, 0x01, 0x81, 0x00] base with rxExp := 1 }.rxN + 1 ∧
        128 < (({ collecting [0xAA, 0x01, 0x81, 0x00] base with rxExp := 1 }.rxAcc.write 4 0).read 2).toNat) ∧
      ({ base with txBusy := true, txIdx := 132 }.txBusy = true ∧ 132 ≤ { base with txBusy := true, txIdx := 132 }.txIdx) ∧
      ((sending [0xAA, 0x01, 0x00, 0x00] 4 base).txBusy = true ∧ (sending [0xAA, 0x01, 0x00, 0x00] 4 base).txIdx < 132 ∧
        (sending [0xAA, 0x01, 0x00, 0x00] 4 base).txN ≤ (sending [0xAA, 0x01, 0x00, 0x00] 4 base).txIdx) := by decide

/-- Two states that differ in every register that is not architectural in `Idle` with no frame pending, and in no other. -/
theorem witness_NonArchitecturalContentsAreUnobservable :
    (pending [.rxByte 0xAA] base).Inv ∧
      (pending [.rxByte 0xAA]
        { base with rxExp := 7, rxAcc := [(1, 9)], txBuf := [(0, 5)], txN := 3, txIdx := 2 }).Inv ∧
      (pending [.rxByte 0xAA] base).SameArch
        (pending [.rxByte 0xAA]
          { base with rxExp := 7, rxAcc := [(1, 9)], txBuf := [(0, 5)], txN := 3, txIdx := 2 }) ∧
      ∃ t, step (pending [.rxByte 0xAA] base) = .next t := by
  refine ⟨⟨by decide, by decide, by decide, by decide, by decide, by decide⟩,
    ⟨by decide, by decide, by decide, by decide, by decide, by decide⟩, ?_, steps_of (by decide)⟩
  exact ⟨rfl, rfl, rfl, rfl, rfl, rfl, fun h => (by cases h), fun a h => absurd h (Nat.not_lt_zero a), rfl, rfl,
    fun h => (by cases h), fun h => (by cases h), fun h => (by cases h), fun _ _ => rfl, rfl, rfl⟩

theorem witness_CountersInfluenceNothing : ∃ t, step (pending [.rxByte 0x01] base) = .next t := steps_of (by decide)

theorem witness_ConfigurationIsConstant : ∃ t, step (pending [.reset, .rxTick] base) = .next t := steps_of (by decide)

theorem witness_TransmitEventsLeaveTheReceiver :
    (∃ t, exec (.txReq 0x01 []) base = .next t) ∧
      (∃ t, exec .txPop (sending [0xAA, 0x01, 0x00, 0x00] 3 base) = .next t) ∧ ∃ t, exec .txAbort base = .next t :=
  ⟨exec_of (by decide), exec_of (by decide), exec_of (by decide)⟩

/-- A byte that ends a frame with a reply, a byte that does not, and a tick. -/
theorem witness_ReceiveEventsReachTheSerializerByReply :
    (∃ t, exec (.rxByte 0x00) (collecting [0xAA, 0x01, 0x00] base) = .next t ∧
        t.out.reply = some (.submitted 0x07 [])) ∧
      (∃ t, exec (.rxByte 0x55) base = .next t ∧ ¬ Submits t.out) ∧ ∃ t, exec .rxTick base = .next t := by
  obtain ⟨t, ht, hq⟩ := next_of_holdsAfter (o := exec (.rxByte 0x00) (collecting [0xAA, 0x01, 0x00] base))
    (q := fun t => decide (t.out.reply = some (.submitted 0x07 []))) (by decide)
  obtain ⟨u, hu, hr⟩ := next_of_holdsAfter (o := exec (.rxByte 0x55) base)
    (q := fun t => decide (t.out.reply = none)) (by decide)
  refine ⟨⟨t, ht, by simpa using hq⟩, ⟨u, hu, ?_⟩, exec_of (by decide)⟩
  rintro ⟨c, p, h⟩
  rw [show u.out.reply = none by simpa using hr] at h
  cases h

theorem witness_ReceiveAndTransmitCommute :
    ∃ a ab, exec (.rxByte 0xAA) base = .next a ∧ a.out.reply = none ∧ exec (.txReq 0x01 []) a = .next ab := by
  obtain ⟨a, ha, hq⟩ := next_of_holdsAfter (o := exec (.rxByte 0xAA) base)
    (q := fun a => decide (a.out.reply = none) && holdsAfter (exec (.txReq 0x01 []) a) fun _ => true) (by decide)
  obtain ⟨h1, h2⟩ := Bool.and_eq_true_iff.mp hq
  obtain ⟨ab, hab⟩ := exec_of h2
  exact ⟨a, ab, ha, by simpa using h1, hab⟩

/-- A step by the set-city route, and a step of `RESET` that changes the register. -/
theorem witness_OnlySetCityWritesTheCity :
    (∃ t, step (pending [.rxByte 0x42] (collecting [0xAA, 0x04, 0x01, 0x42] base)) = .next t ∧
        t.activeCity ≠ base.activeCity ∧ t.out.route = some ⟨.citySet, 0x04, 1, [0x42]⟩) ∧
      ∃ t, step (pending [.reset] { base with activeCity := [(0, 0x42)] }) = .next t ∧ t.activeCity ≠ [(0, 0x42)] := by
  obtain ⟨t, ht, hq⟩ := next_of_holdsAfter
    (o := step (pending [.rxByte 0x42] (collecting [0xAA, 0x04, 0x01, 0x42] base)))
    (q := fun t => decide (t.activeCity ≠ base.activeCity ∧ t.out.route = some ⟨.citySet, 0x04, 1, [0x42]⟩)) (by decide)
  obtain ⟨u, hu, hr⟩ := next_of_holdsAfter (o := step (pending [.reset] { base with activeCity := [(0, 0x42)] }))
    (q := fun t => decide (t.activeCity ≠ [(0, 0x42)])) (by decide)
  exact ⟨⟨t, ht, of_decide_eq_true hq⟩, u, hu, of_decide_eq_true hr⟩

theorem witness_CountersCountTheReports :
    (pending [.rxByte 0x00] (collecting [0xAA, 0x02, 0x00] base)).inputs = ⟨.rxByte 0x00, e0⟩ :: [] ∧
      (∃ t, step (pending [.rxByte 0x00] (collecting [0xAA, 0x02, 0x00] base)) = .next t) ∧
      Event.rxByte 0x00 ≠ .reset ∧
      dspSum (pending [.rxByte 0x00] (collecting [0xAA, 0x02, 0x00] base)) ≤ base.cnt.rxAccept.toNat ∧
      base.cnt.rxAccept.toNat + 1 < 2 ^ 32 :=
  ⟨rfl, steps_of (by decide), by decide, by decide, by decide⟩

theorem witness_SameCycleOrder :
    (CycleEvents.mk true (some 1) true true true (some (1, [])) true).reset = true ∧
      (CycleEvents.mk false (some 1) true true true (some (1, [])) true).reset = false := by decide

/-- One cycle for each clause. -/
theorem witness_SameCycleConsequences :
    (∃ os t, trace 2 ((collecting [0xAA] base).addCycle ⟨false, some 0x01, true, false, false, none, false⟩ e0) =
        .next (os, t) ∧ os.map Out.rxEv = [some .stored, none]) ∧
      (∃ os t, trace 2 ((collecting [0xAA, 0x06, 0x00] base).addCycle
          ⟨false, some 0x00, false, false, false, some (0x01, []), false⟩ e0) = .next (os, t) ∧
        (os.head?.bind Out.reply).isSome = true) ∧
      (sending [0xAA, 0x01, 0x00, 0x00] 3 base).cfg.wf = true ∧
      (sending [0xAA, 0x01, 0x00, 0x00] 3 base).txBusy = true ∧
      (sending [0xAA, 0x01, 0x00, 0x00] 3 base).txIdx + 1 = (sending [0xAA, 0x01, 0x00, 0x00] 3 base).txN := by
  obtain ⟨os, t, ht, hq⟩ := next_of_holdsTrace (n := 2)
    (s := (collecting [0xAA] base).addCycle ⟨false, some 0x01, true, false, false, none, false⟩ e0)
    (q := fun os _ => decide (os.map Out.rxEv = [some .stored, none])) (by decide)
  obtain ⟨os', t', ht', hq'⟩ := next_of_holdsTrace (n := 2)
    (s := (collecting [0xAA, 0x06, 0x00] base).addCycle
      ⟨false, some 0x00, false, false, false, some (0x01, []), false⟩ e0)
    (q := fun os _ => (os.head?.bind Out.reply).isSome) (by decide)
  exact ⟨⟨os, t, ht, of_decide_eq_true hq⟩, ⟨os', t', ht', hq'⟩, by decide, by decide, by decide⟩

/-- 95 P6 from its second row: the display has taken `TX_REQ(06, [])`; the connectivity unit is idle. -/
def p6 : Pair := ⟨base, sending [0xAA, 0x06, 0x00, 0x00] 0 Pair.reset.far⟩

/-- The same two ends the other way round. -/
def p6Turned : Pair := ⟨p6.far, p6.near⟩

/-- For each clause: ends joined; ends of one role, of different `START` and of different ids; an empty frame, and one of
the greatest length, in either direction; a pending status request in either direction. -/
theorem witness_LinkCarriesAWholeFrame :
    (p6.joined = true ∧ p6Turned.joined = true) ∧
      ((∀ q ∈ [Pair.mk base base, ⟨base, { p6.far with cfg := { p6.far.cfg with start := 0x55 } }⟩,
            ⟨base, { p6.far with cfg := { p6.far.cfg with cmdAck := 0x55 } }⟩],
          q.near.cfg.wf = true ∧ q.far.cfg.wf = true ∧ q.joined = false) ∧
        (∀ dq ∈ [(false, p6), (true, p6Turned)],
          dq.2.near.cfg.wf = true ∧ dq.2.far.cfg.wf = true ∧ (dq.2.sender dq.1).txBusy = true ∧
            (dq.2.sender dq.1).txIdx = 0 ∧ (dq.2.sender dq.1).txN = 4 + ([] : List Byte).length ∧
            (dq.2.sender dq.1).txBuf.readBytes 0 4 =
              wire (dq.2.sender dq.1).cfg (dq.2.sender dq.1).cfg.cmdSystemStatus [] ∧
            (dq.2.sender dq.1).rxFsm = .idle ∧ (dq.2.receiver dq.1).rxFsm = .idle ∧
            (dq.2.receiver dq.1).txBusy = false)) := by decide

theorem witness_LinkCarriesAWholeFrame_longest :
    (bytes 128 0).length ≤ 128 ∧
      (sending (wire Cfg.default 0x01 (bytes 128 0)) 0 base).txN = 4 + (bytes 128 0).length ∧
      (sending (wire Cfg.default 0x01 (bytes 128 0)) 0 base).txBuf.readBytes 0 (4 + (bytes 128 0).length) =
        wire Cfg.default 0x01 (bytes 128 0) ∧
      (Pair.mk (sending (wire Cfg.default 0x01 (bytes 128 0)) 0 base) Pair.reset.far).joined = true := by decide +kernel

/-- 95 P6, second row: the display's byte `AA` starts a frame at the connectivity unit. -/
theorem test_transfer_toNear :
    (match p6.transfer false with
      | .next q => decide (q.far.out.txEv = some (.byte 0xAA false) ∧ q.near.out.rxEv = some .started ∧ q.near.rxN = 1)
      | _ => false) = true := by decide

theorem test_transfer_mismatched :
    (match (Pair.mk p6.far p6.far).transfer true with
      | .refused r => decide (r = .mismatchedPair)
      | _ => false) = true := by decide

theorem witness_FrameOfDispatchedFrames :
    (Instr.systemStatusReq).isFrame = true ∧ (∃ t, exec .systemStatusReq base = .next t) ∧
      (∃ t, exec .systemStatusReq (sending [0xAA, 0x01, 0x00, 0x00] 0 base) = .next t) ∧
      ∃ t, exec (.getWeather []) base = .next t :=
  ⟨rfl, exec_of (by decide), exec_of (by decide), exec_of (by decide)⟩

theorem witness_FrameOfReceiveEvents :
    (∃ t, exec (.rxByte 0xAA) base = .next t) ∧ (∃ t, exec (.rxByte 0x01) base = .next t) ∧
      (∃ t, exec (.rxByte 0x01) (collecting [0xAA] base) = .next t ∧ ¬ Accepts t.out) ∧
      ∃ t, exec .rxTick (collecting [0xAA] base) = .next t := by
  obtain ⟨u, hu, hr⟩ := next_of_holdsAfter (o := exec (.rxByte 0x01) (collecting [0xAA] base))
    (q := fun t => decide (t.out.rxEv = some .stored)) (by decide)
  refine ⟨exec_of (by decide), exec_of (by decide), ⟨u, hu, ?_⟩, exec_of (by decide)⟩
  rintro ⟨f, h⟩
  rw [of_decide_eq_true hr] at h
  cases h

theorem witness_FrameOfTransmitAndHostEvents :
    (∃ t, exec (.txReq 0x01 (bytes 2 1)) base = .next t) ∧
      (∃ t, exec (.txReq 0x01 []) (sending [0xAA, 0x01, 0x00, 0x00] 0 base) = .next t ∧ t.out.txEv ≠ some .taken) ∧
      (∃ t, exec .txPop (sending [0xAA, 0x01, 0x00, 0x00] 3 base) = .next t) ∧ (∃ t, exec .txAbort base = .next t) ∧
      (∃ t, exec .forceRefreshClr base = .next t) ∧ ∃ t, exec .reset base = .next t := by
  obtain ⟨u, hu, hr⟩ := next_of_holdsAfter (o := exec (.txReq 0x01 []) (sending [0xAA, 0x01, 0x00, 0x00] 0 base))
    (q := fun t => decide (t.out.txEv ≠ some .taken)) (by decide)
  exact ⟨exec_of (by decide), ⟨u, hu, of_decide_eq_true hr⟩, exec_of (by decide), exec_of (by decide),
    exec_of (by decide), exec_of (by decide)⟩

end Sys2Proof.Tests
end

section
/-! The order of the events of one clock cycle (R6). Each kind of event has one slot in the delivered list, and the slots
stand in the order of their ranks. -/

namespace Sys2Proof.Machine

open Sys2Proof.Spec

@[simp] theorem mem_eventWhen {present : Bool} {d e : Event} :
    e ∈ eventWhen present d ↔ present = true ∧ e = d := by
  cases present <;> simp [eventWhen]

theorem CycleEvents.ordered_of_reset {c : CycleEvents} (h : c.reset = true) : c.ordered = [.reset] := if_pos h

theorem CycleEvents.ordered_of_not_reset {c : CycleEvents} (h : c.reset = false) :
    c.ordered =
      (c.rxByte.map Event.rxByte).toList ++ eventWhen c.rxTick .rxTick ++ eventWhen c.txAbort .txAbort ++
        eventWhen c.txPop .txPop ++ (c.txReq.map fun r => Event.txReq r.1 r.2).toList ++
        eventWhen c.forceRefreshClr .forceRefreshClr :=
  if_neg (by simp [h])

/-- The events stand in ascending rank, and no rank is above `n`. -/
def RankedUpTo (n : Nat) (es : List Event) : Prop :=
  es.Pairwise (fun d e => rank d < rank e) ∧ ∀ e ∈ es, rank e ≤ n

theorem RankedUpTo.nil (n : Nat) : RankedUpTo n [] := ⟨.nil, by simp⟩

/-- A slot of the next rank, empty or not, may follow. -/
theorem RankedUpTo.append_toList {n : Nat} {es : List Event} (h : RankedUpTo n es) {slot : Option Event}
    (hslot : ∀ e ∈ slot, rank e = n + 1) : RankedUpTo (n + 1) (es ++ slot.toList) := by
  obtain ⟨hsorted, hle⟩ := h
  cases slot with
  | none => simpa [RankedUpTo] using ⟨hsorted, fun e he => Nat.le_succ_of_le (hle e he)⟩
  | some d =>
    have hd : rank d = n + 1 := hslot d rfl
    refine ⟨List.pairwise_append.mpr ⟨hsorted, List.pairwise_singleton _ d, ?_⟩, ?_⟩
    · intro e he d' hd'
      rw [List.mem_singleton.mp hd', hd]
      exact Nat.lt_succ_of_le (hle e he)
    · intro e he
      rcases List.mem_append.mp he with he | he
      · exact Nat.le_succ_of_le (hle e he)
      · rw [List.mem_singleton.mp he, hd]

theorem RankedUpTo.append_eventWhen {n : Nat} {es : List Event} (h : RankedUpTo n es) (present : Bool) {d : Event}
    (hd : rank d = n + 1) : RankedUpTo (n + 1) (es ++ eventWhen present d) := by
  cases present with
  | false => exact h.append_toList (slot := none) (by simp)
  | true => exact h.append_toList (slot := some d) (by simpa using hd)

theorem RankedUpTo.append_map {α : Type} {n : Nat} {es : List Event} (h : RankedUpTo n es) (o : Option α)
    {f : α → Event} (hf : ∀ a, rank (f a) = n + 1) : RankedUpTo (n + 1) (es ++ (o.map f).toList) :=
  h.append_toList fun e he => by
    obtain ⟨a, -, rfl⟩ := Option.map_eq_some_iff.mp he
    exact hf a

theorem CycleEvents.rankedUpTo_ordered {c : CycleEvents} (h : c.reset = false) : RankedUpTo 6 c.ordered := by
  rw [ordered_of_not_reset h]
  exact (RankedUpTo.nil 0).append_map c.rxByte (fun _ => rfl) |>.append_eventWhen c.rxTick rfl
    |>.append_eventWhen c.txAbort rfl |>.append_eventWhen c.txPop rfl
    |>.append_map c.txReq (fun _ => rfl) |>.append_eventWhen c.forceRefreshClr rfl

theorem CycleEvents.mem_ordered {c : CycleEvents} (h : c.reset = false) (e : Event) :
    e ∈ c.ordered ↔
      (∃ b, c.rxByte = some b ∧ e = .rxByte b) ∨ (c.rxTick = true ∧ e = .rxTick) ∨
      (c.txAbort = true ∧ e = .txAbort) ∨ (c.txPop = true ∧ e = .txPop) ∨
      (∃ r, c.txReq = some r ∧ e = .txReq r.1 r.2) ∨ (c.forceRefreshClr = true ∧ e = .forceRefreshClr) := by
  simp only [ordered_of_not_reset h, List.mem_append, Option.mem_toList, Option.map_eq_some_iff, mem_eventWhen,
    or_assoc, eq_comm (b := e)]

/-- Settles O54: with `RESET` its own case, by the slots' ascending ranks and by membership slot by slot. -/
theorem sameCycleOrder : Obligations.SameCycleOrder := fun _ =>
  ⟨CycleEvents.ordered_of_reset, fun h => ⟨(CycleEvents.rankedUpTo_ordered h).1, CycleEvents.mem_ordered h⟩⟩

end Sys2Proof.Machine
end

section
/-! The checksum is an XOR fold (R90): its corner cases, from the fold's equations at `[]`, `b :: p` and `p ++ q`. -/

namespace Sys2Proof

@[simp] theorem xor8_singleton (b : Byte) : xor8 [b] = b := by
  rw [xor8_cons, xor8_nil]
  exact BitVec.xor_zero

theorem xor8_append_singleton (p : List Byte) (b : Byte) : xor8 (p ++ [b]) = xor8 p ^^^ b := by
  rw [xor8_append, xor8_singleton]

theorem xor8_pair_self (b : Byte) : xor8 [b, b] = 0 := by
  rw [xor8_cons, xor8_singleton]
  exact BitVec.xor_self

@[simp] theorem xor8_replicate_zero (n : Nat) : xor8 (List.replicate n 0) = 0 := by
  induction n with
  | zero => exact xor8_nil
  | succ n ih =>
    rw [List.replicate_succ, xor8_cons, ih]
    exact BitVec.xor_self

/-- R90's worked example, the payload `ABC`. -/
theorem xor8_worked_example : xor8 [0x41, 0x42, 0x43] = 0x40 := by decide

/-- Settles O1: each clause from the fold's equations, the zero payload by induction on its length. -/
theorem xor8IsTheXorFold : Obligations.Xor8IsTheXorFold :=
  ⟨xor8_nil, xor8_append_singleton, xor8_singleton, xor8_pair_self, xor8_replicate_zero, xor8_worked_example⟩

end Sys2Proof
end

section
/-! Two instances interleaved (R117): each move of the pair is a step of one instance, so a schedule is two runs. -/

namespace Sys2Proof.Machine

theorem run_succ_eq_next {M : Host.Core} {k : Nat} {s t : M.State} :
    M.run (k + 1) s = .next t ↔ ∃ u, M.step s = .next u ∧ M.run k u = .next t := by
  cases h : M.step s with
  | next u => simp [run_of_next h]
  | fault r => simp [run_of_fault h]
  | refused r => simp [run_of_refused h]

/-! The same with `core`'s state and step under their own names, as the steps of a pair have them. -/

theorem coreRun_zero_eq_next {s t : State} : core.run 0 s = .next t ↔ s = t :=
  ⟨Host.Outcome.next.inj, congrArg Host.Outcome.next⟩

theorem coreRun_succ_eq_next {k : Nat} {s t : State} :
    core.run (k + 1) s = .next t ↔ ∃ u : State, step s = .next u ∧ core.run k u = .next t :=
  run_succ_eq_next

theorem pair_eq_iff {q q' : Pair} : q = q' ↔ q.near = q'.near ∧ q.far = q'.far := by
  cases q
  cases q'
  simp

theorem stepOne_near_eq_next {q q' : Pair} :
    q.stepOne true = .next q' ↔ ∃ s, step q.near = .next s ∧ { q with near := s } = q' := by
  cases h : step q.near <;> simp [Pair.stepOne, h]

theorem stepOne_far_eq_next {q q' : Pair} :
    q.stepOne false = .next q' ↔ ∃ s, step q.far = .next s ∧ { q with far := s } = q' := by
  cases h : step q.far <;> simp [Pair.stepOne, h]

theorem pairRun_cons_eq_next {b : Bool} {bs : List Bool} {q q' : Pair} :
    Pair.run (b :: bs) q = .next q' ↔ ∃ r, q.stepOne b = .next r ∧ Pair.run bs r = .next q' := by
  cases h : q.stepOne b <;> simp [Pair.run, h]

theorem pairRun_near_cons_eq_next {bs : List Bool} {q q' : Pair} :
    Pair.run (true :: bs) q = .next q' ↔
      ∃ s, step q.near = .next s ∧ Pair.run bs { q with near := s } = .next q' := by
  simp [pairRun_cons_eq_next, stepOne_near_eq_next]

theorem pairRun_far_cons_eq_next {bs : List Bool} {q q' : Pair} :
    Pair.run (false :: bs) q = .next q' ↔
      ∃ s, step q.far = .next s ∧ Pair.run bs { q with far := s } = .next q' := by
  simp [pairRun_cons_eq_next, stepOne_far_eq_next]

/-- Settles O56, by induction on the schedule: its first entry is the first step of one run and no step of the other. -/
theorem interleavedInstancesAreIndependent : Obligations.InterleavedInstancesAreIndependent := by
  intro sched q q'
  induction sched generalizing q with
  | nil =>
    rw [List.count_nil, List.count_nil, coreRun_zero_eq_next, coreRun_zero_eq_next]
    simp [Pair.run, pair_eq_iff]
  | cons b bs ih =>
    cases b with
    | true =>
      rw [List.count_cons_self, List.count_cons_of_ne (by decide), coreRun_succ_eq_next, pairRun_near_cons_eq_next]
      simp only [ih, ← exists_and_right, and_assoc]
    | false =>
      rw [List.count_cons_self, List.count_cons_of_ne (by decide), coreRun_succ_eq_next, pairRun_far_cons_eq_next]
      simp only [ih, ← exists_and_left, and_left_comm]

end Sys2Proof.Machine
end

section
/-! The decoder's events (R100 to R115): one equation for each case of `RX_BYTE` and `RX_TICK` that ends no whole frame. -/

namespace Sys2Proof.Machine

/-- R102. -/
theorem execRxByte_stray {b : Byte} {s : State} (hf : s.rxFsm = .idle) (hb : b ≠ s.cfg.start) :
    execRxByte b s = .next (strayByte b s.beginStep) := by
  simp [execRxByte, hf, hb]

/-- R105, after the append. -/
theorem afterAppend_of_oversized {s : State} (hd : s.lengthDue = true) (hl : 128 < (s.rxAcc.read 2).toNat) :
    afterAppend s = .next (discardFrame .badLength s) := by
  rw [afterAppend, if_pos hd]
  exact if_pos hl

/-- The append of the fourth byte, or of a later one, leaves the length field. -/
theorem appended_read_length {b : Byte} {s : State} (hn : 3 ≤ s.rxN) :
    (appended b s).rxAcc.read 2 = s.rxAcc.read 2 :=
  Memory.read_write_other s.rxAcc b (by omega)

/-- R114, in `Idle`. -/
theorem execRxTick_idle {s : State} (hf : s.rxFsm = .idle) : execRxTick s = .next s.beginStep := by
  simp [execRxTick, hf]

/-- R114, below the bound. -/
theorem execRxTick_below {s : State} (hf : s.rxFsm = .accumulating) (h : s.rxStall + 1 < s.cfg.stallLimit) :
    execRxTick s = .next { s.beginStep with rxStall := s.rxStall + 1 } := by
  have he : ¬ s.stallExpires = true := by rw [stallExpires_iff]; omega
  simp [execRxTick, hf, he]

/-- R115. -/
theorem execRxTick_expires {s : State} (hf : s.rxFsm = .accumulating) (h : s.cfg.stallLimit ≤ s.rxStall + 1) :
    execRxTick s = .next (discardFrame .timeout s.beginStep) := by
  simp [execRxTick, hf, (stallExpires_iff s).mpr h]

/-- Settles O14: the state after R101 is `startedFrame`. -/
theorem startByteBeginsAFrame : Obligations.StartByteBeginsAFrame := fun _ _ hf hb => execRxByte_start hf hb

/-- Settles O15. -/
theorem strayByteIsCountedAndDiscarded : Obligations.StrayByteIsCountedAndDiscarded :=
  fun _ _ hf hb => execRxByte_stray hf hb

/-- Settles O17: the append makes the length due, and the length field it leaves is above the maximum. -/
theorem oversizedLengthIsRejectedAtTheFourthByte : Obligations.OversizedLengthIsRejectedAtTheFourthByte := by
  intro s b hf hv hlo hhi hl
  have hdue : (appended b s).lengthDue = true := (lengthDue_iff _).mpr ⟨hv, Nat.succ_le_succ hlo⟩
  calc exec (.rxByte b) s
    _ = afterAppend (appended b s) := execRxByte_append hf (Nat.lt_succ_of_le hhi)
    _ = .next (discardFrame .badLength (appended b s)) :=
      afterAppend_of_oversized hdue (by rwa [appended_read_length hlo])

/-- Settles O19. -/
theorem tickBelowTheBoundOnlyCounts : Obligations.TickBelowTheBoundOnlyCounts :=
  ⟨fun _ hf => execRxTick_idle hf, fun _ hf h => execRxTick_below hf h⟩

/-- Settles O20. -/
theorem tickAtTheBoundDiscards : Obligations.TickAtTheBoundDiscards := fun _ hf h => execRxTick_expires hf h

end Sys2Proof.Machine
end

section
/-! The serializer's events (R132 to R138): one equation for each case of `TX_REQ`, `TX_POP` and `TX_ABORT`. -/

namespace Sys2Proof.Machine

open Sys2Proof.Spec

theorem frameImage_eq_wire (c : Cfg) (cmd : Byte) (p : List Byte) : frameImage c cmd p = wire c cmd p := rfl

@[simp] theorem length_wire (c : Cfg) (cmd : Byte) (p : List Byte) : (wire c cmd p).length = 4 + p.length := by
  rw [← frameImage_eq_wire, length_frameImage, Nat.add_comm]

/-- R134, busy or not. -/
theorem execTxReq_tooLong {cmd : Byte} {p : List Byte} {s : State} (hp : 128 < p.length) :
    execTxReq cmd p s = .next (refuse .txBadLength s.beginStep) := if_pos hp

/-- R133. -/
theorem execTxReq_busy {cmd : Byte} {p : List Byte} {s : State} (hp : p.length ≤ 128) (hb : s.txBusy = true) :
    execTxReq cmd p s = .next (refuse .txBusy s.beginStep) := by
  rw [execTxReq, if_neg (Nat.not_lt.mpr hp), if_pos hb]

/-- R132. -/
theorem execTxReq_idle {cmd : Byte} {p : List Byte} {s : State} (hp : p.length ≤ 128) (hb : s.txBusy = false) :
    execTxReq cmd p s = .next ((loaded cmd p s.beginStep).setTxEv .taken) := by
  rw [execTxReq, if_neg (Nat.not_lt.mpr hp), if_neg (by simp [hb]), loadFrame_of_le hp]

/-- R135. -/
theorem execTxPop_nextByte {s : State} (hb : s.txBusy = true) (hn : s.txIdx + 1 < s.txN) (hlt : s.txIdx < 132) :
    execTxPop s =
      .next ({ s.beginStep with txIdx := s.txIdx + 1 }.setTxEv (.byte (s.txBuf.read s.txIdx) false)) := by
  simp only [execTxPop, if_pos hb, pendingByte_of_lt hlt, if_pos hn]

/-- R136. -/
theorem execTxPop_lastByte {s : State} (hb : s.txBusy = true) (hn : s.txIdx + 1 = s.txN) (hlt : s.txIdx < 132) :
    execTxPop s =
      .next (({ s.beginStep with txBusy := false }.bump .txFrames).setTxEv (.byte (s.txBuf.read s.txIdx) true)) := by
  simp only [execTxPop, if_pos hb, pendingByte_of_lt hlt, if_neg hn.not_lt, if_pos hn]

/-- R137. -/
theorem execTxPop_idle {s : State} (hb : s.txBusy = false) : execTxPop s = .next (s.beginStep.setTxEv .empty) :=
  if_neg (by simp [hb])

/-- R138, with a frame pending. -/
theorem execTxAbort_busy {s : State} (hb : s.txBusy = true) :
    execTxAbort s = .next (({ s.beginStep with txBusy := false }.bump .txAbort).setTxEv .aborted) := if_pos hb

/-- R138, with no frame pending. -/
theorem execTxAbort_idle {s : State} (hb : s.txBusy = false) : execTxAbort s = .next s.beginStep :=
  if_neg (by simp [hb])

/-- Settles O23: the state taken is `loaded`, and what was written is what is read back. -/
theorem requestIsTaken : Obligations.RequestIsTaken := by
  intro s cmd p hp hb
  constructor
  · rw [Nat.add_comm 4]
    exact execTxReq_idle hp hb
  · rw [← length_wire s.cfg cmd p]
    exact Memory.readBytes_writeBytes_same s.txBuf 0 (wire s.cfg cmd p)

/-- Settles O24: the length test stands before the busy test. -/
theorem requestIsRefused : Obligations.RequestIsRefused :=
  ⟨fun _ _ _ hp hb => execTxReq_busy hp hb, fun _ _ _ hp => execTxReq_tooLong hp⟩

/-- Settles O25. -/
theorem popHandsOverTheNextByte : Obligations.PopHandsOverTheNextByte :=
  ⟨fun _ hb hn hlt => execTxPop_nextByte hb hn hlt, fun _ hb hn hlt => execTxPop_lastByte hb hn hlt,
    fun _ hb => execTxPop_idle hb⟩

/-- Settles O26. -/
theorem abortFreesTheSerializer : Obligations.AbortFreesTheSerializer :=
  ⟨fun _ hb => execTxAbort_busy hb, fun _ hb => execTxAbort_idle hb⟩

end Sys2Proof.Machine
end

section
/-! The dispatcher's rows (R153 to R167): one equation for each case of a row, and for each outcome the cases share, a
route, a drop, a reply, its next state written out. -/

namespace Sys2Proof.Machine

open Sys2Proof.Spec

/-! The shared outcomes. -/

theorem routeTo_eq (r : Route) (cmd : Byte) (p : List Byte) (s : State) :
    routeTo r cmd p s = { s with out := { s.out with route := routed r cmd p, reply := none } } := rfl

theorem drop_unknownCommand (cmd : Byte) (p : List Byte) (s : State) :
    drop .unknownCommand cmd p s =
      { s with
        cnt := { s.cnt with dspUnknown := s.cnt.dspUnknown + 1 },
        out := { s.out with route := routed .unknown cmd p, reply := none } } := rfl

theorem drop_unimplemented (cmd : Byte) (p : List Byte) (s : State) :
    drop .unimplemented cmd p s =
      { s with
        cnt := { s.cnt with dspUnimpl := s.cnt.dspUnimpl + 1 },
        out := { s.out with route := routed .unimplemented cmd p, reply := none } } := rfl

theorem drop_badPayload (cmd : Byte) (p : List Byte) (s : State) :
    drop .badPayload cmd p s =
      { s with
        cnt := { s.cnt with dspBadPayload := s.cnt.dspBadPayload + 1 },
        out := { s.out with route := routed .badPayload cmd p, reply := none } } := rfl

/-- R168: a routed frame whose reply finds the serializer idle. -/
theorem submitReply_routeTo_idle (r : Route) (c : Byte) (p : List Byte) {cmd : Byte} {q : List Byte} {s : State}
    (hb : s.txBusy = false) (hq : q.length ≤ 128) :
    submitReply cmd q (routeTo r c p s) =
      .next
        { s with
          txBuf := s.txBuf.writeBytes 0 (wire s.cfg cmd q), txN := q.length + 4, txIdx := 0, txBusy := true,
          out := { s.out with route := routed r c p, reply := some (.submitted cmd q) } } :=
  submitReply_of_idle (s := routeTo r c p s) hb hq

/-- R169: a routed frame whose reply finds the serializer busy. -/
theorem submitReply_routeTo_busy (r : Route) (c : Byte) (p : List Byte) {cmd : Byte} {q : List Byte} {s : State}
    (hb : s.txBusy = true) :
    submitReply cmd q (routeTo r c p s) =
      .next
        { s with
          cnt := { s.cnt with txSkip := s.cnt.txSkip + 1 },
          out := { s.out with route := routed r c p, reply := some (.skipped cmd q) } } :=
  submitReply_of_busy (s := routeTo r c p s) hb

/-! `GET_WEATHER` and `SET_CITY`, case by case. -/

/-- R153. -/
theorem execGetWeather_connectivity {p : List Byte} {s : State} (hr : s.cfg.role = .connectivity) :
    execGetWeather p s = submitReply s.cfg.cmdAck [] (routeTo .weatherFetch s.cfg.cmdGetWeather p s) := by
  simp [execGetWeather, hr]

/-- R154. -/
theorem execGetWeather_display {p : List Byte} {s : State} (hr : s.cfg.role = .display) :
    execGetWeather p s = .next (routeTo .weatherData s.cfg.cmdGetWeather p s) := by
  simp [execGetWeather, hr]

/-- R157. -/
theorem execSetCity_stored {p : List Byte} {s : State} (hr : s.cfg.role = .connectivity) (hp : p.length ≤ 31) :
    execSetCity p s =
      .next
        (routeTo .citySet s.cfg.cmdSetCity p
          { s with activeCity := s.activeCity.writeBytes 0 (cityPad p), forceRefresh := true }) := by
  have hw : memWrite .city 0 (cityPad p) s = some { s with activeCity := s.activeCity.writeBytes 0 (cityPad p) } :=
    memWrite_of_le (by rw [cityPad_length hp]; exact Nat.le_refl 32)
  simp [execSetCity, hr, hp, hw]

/-- R158. -/
theorem execSetCity_tooLong {p : List Byte} {s : State} (hr : s.cfg.role = .connectivity) (hp : 32 ≤ p.length) :
    execSetCity p s = .next (drop .badPayload s.cfg.cmdSetCity p s) := by
  have hl : ¬ p.length ≤ 31 := by omega
  simp [execSetCity, hr, hl]

/-- R159. -/
theorem execSetCity_display {p : List Byte} {s : State} (hr : s.cfg.role = .display) :
    execSetCity p s = .next (drop .unimplemented s.cfg.cmdSetCity p s) := by
  simp [execSetCity, hr]

/-- R74: the padded string covers the whole city register. -/
theorem read_writeBytes_cityPad (m : Memory) {p : List Byte} (hp : p.length ≤ 31) {k : Nat} (hk : k < 32) :
    (m.writeBytes 0 (cityPad p)).read k = if k < p.length then p.getD k 0 else 0 := by
  have hin : 0 ≤ k ∧ k < 0 + (cityPad p).length := by rw [cityPad_length hp]; omega
  rw [Memory.read_writeBytes, if_pos hin, Nat.sub_zero, cityPad]
  split
  · next h => exact List.getD_append _ _ _ _ h
  · next h =>
    rw [List.getD_append_right _ _ _ _ (Nat.not_lt.mp h)]
    exact List.getD_replicate _ (Nat.sub_lt_sub_right (Nat.not_lt.mp h) hk)

/-! The status record. -/

theorem extractLsb'_eq_ofNat_div (x : BitVec 32) (k : Nat) : x.extractLsb' k 8 = BitVec.ofNat 8 (x.toNat / 2 ^ k) := by
  rw [BitVec.extractLsb', Nat.shiftRight_eq_div_pow]

/-- The uptime's bytes, cut from the word, are its four lowest digits to the base 256. -/
theorem statusRecord_eq_record (c : Cfg) (e : Env) : statusRecord c e = record c e := by
  simp [statusRecord, record, flagByte, extractLsb'_eq_ofNat_div]

theorem length_record_le (c : Cfg) (e : Env) : (record c e).length ≤ 128 := by simp [record]

/-- R161. -/
theorem execSystemStatusReq_eq (s : State) :
    execSystemStatusReq s =
      submitReply s.cfg.cmdSystemStatus (record s.cfg s.env) (routeTo .statusReq s.cfg.cmdSystemStatus [] s) := by
  rw [← statusRecord_eq_record, execSystemStatusReq]

/-! The obligations. -/

/-- Settles O29, by the role and, where there is a reply, by the serializer. -/
theorem weatherFrameByRole : Obligations.WeatherFrameByRole := by
  refine ⟨fun s p hr hb => ?_, fun s p hr hb => ?_, fun s p hr => ?_⟩
  · exact (execGetWeather_connectivity hr).trans (submitReply_routeTo_idle _ _ p hb (Nat.zero_le 128))
  · exact (execGetWeather_connectivity hr).trans (submitReply_routeTo_busy _ _ p hb)
  · exact (execGetWeather_display hr).trans
      (congrArg Host.Outcome.next (routeTo_eq .weatherData s.cfg.cmdGetWeather p s))

/-- Settles O31: each of the three is the drop of R193. -/
theorem unwiredCommandsAreUnimplemented : Obligations.UnwiredCommandsAreUnimplemented := fun s p =>
  ⟨congrArg Host.Outcome.next (drop_unimplemented s.cfg.cmdGetTime p s),
    congrArg Host.Outcome.next (drop_unimplemented s.cfg.cmdSetTime p s),
    congrArg Host.Outcome.next (drop_unimplemented s.cfg.cmdGetForecast p s)⟩

/-- Settles O32: the padded string is the whole register. -/
theorem setCityStoresTheString : Obligations.SetCityStoresTheString := fun s _ hr hp =>
  ⟨execSetCity_stored hr hp, fun _ hk => read_writeBytes_cityPad s.activeCity hp hk⟩

/-- Settles O33: the role is tested before the length. -/
theorem setCityIsDropped : Obligations.SetCityIsDropped := by
  refine ⟨fun s p hr hp => ?_, fun s p hr => ?_⟩
  · exact (execSetCity_tooLong hr hp).trans (congrArg Host.Outcome.next (drop_badPayload s.cfg.cmdSetCity p s))
  · exact (execSetCity_display hr).trans (congrArg Host.Outcome.next (drop_unimplemented s.cfg.cmdSetCity p s))

/-- Settles O34: the model's record is the one written out from R162. -/
theorem statusRequestIsAnswered : Obligations.StatusRequestIsAnswered := by
  refine ⟨fun s hb => ?_, fun s hb => ?_⟩
  · exact (execSystemStatusReq_eq s).trans (submitReply_routeTo_idle _ _ [] hb (length_record_le s.cfg s.env))
  · exact (execSystemStatusReq_eq s).trans (submitReply_routeTo_busy _ _ [] hb)

/-- Settles O35: each of the four is the route of R152. -/
theorem terminalFramesAreOnlyRouted : Obligations.TerminalFramesAreOnlyRouted := fun s p =>
  ⟨congrArg Host.Outcome.next (routeTo_eq .statusReport s.cfg.cmdSystemStatus p s),
    congrArg Host.Outcome.next (routeTo_eq .ack s.cfg.cmdAck p s),
    congrArg Host.Outcome.next (routeTo_eq .nack s.cfg.cmdNack p s),
    congrArg Host.Outcome.next (routeTo_eq .error s.cfg.cmdError p s)⟩

/-- Settles O36: the drop of R193. -/
theorem unknownCommandIsDropped : Obligations.UnknownCommandIsDropped := fun s cmd p =>
  congrArg Host.Outcome.next (drop_unknownCommand cmd p s)

end Sys2Proof.Machine
end

section
/-! Every frame row does one of two things (R168 to R173): it sets a route and is done, whatever the serializer does, or
it sets a route and offers a reply. -/

namespace Sys2Proof.Machine

open Sys2Proof.Spec

/-- The row sets a route, replies nothing, leaves the decoder and the serializer, and does not look at `tx_busy`. -/
def OnlyRoutes (i : Instr) (s : State) : Prop :=
  ∃ t : State, t.out.route ≠ none ∧ t.out.reply = none ∧ SameReceiver s t ∧ SameSerializer s t ∧
    ∀ busy, exec i { s with txBusy := busy } = .next { t with txBusy := busy }

/-- The row sets a route and offers the serializer a reply that fits a frame. -/
def OffersReply (i : Instr) (s : State) : Prop :=
  ∃ (r : Route) (c : Byte) (p : List Byte) (cmd : Byte) (q : List Byte), q.length ≤ 128 ∧
    ∀ busy, exec i { s with txBusy := busy } = submitReply cmd q (routeTo r c p { s with txBusy := busy })

theorem sameReceiver_refl (s : State) : SameReceiver s s := ⟨rfl, rfl, rfl, rfl, rfl, fun _ => rfl⟩

theorem sameSerializer_refl (s : State) : SameSerializer s s := ⟨rfl, rfl, rfl, fun _ => rfl⟩

/-- A row that, beside its route, writes neither the decoder nor the serializer. -/
theorem OnlyRoutes.of_routeTo {i : Instr} {s u : State} (r : Route) (c : Byte) (p : List Byte)
    (hrx : SameReceiver s u) (htx : SameSerializer s u)
    (h : ∀ busy, exec i { s with txBusy := busy } = .next (routeTo r c p { u with txBusy := busy })) : OnlyRoutes i s :=
  ⟨routeTo r c p u, by simp, rfl, hrx, htx, h⟩

/-- A row that is a route and nothing else. -/
theorem OnlyRoutes.of_route {i : Instr} {s : State} (r : Route) (c : Byte) (p : List Byte)
    (h : ∀ busy, exec i { s with txBusy := busy } = .next (routeTo r c p { s with txBusy := busy })) : OnlyRoutes i s :=
  .of_routeTo r c p (sameReceiver_refl s) (sameSerializer_refl s) h

/-- A row that is a drop (R193). -/
theorem OnlyRoutes.of_drop {i : Instr} {s : State} (k : DropCause) (c : Byte) (p : List Byte)
    (h : ∀ busy, exec i { s with txBusy := busy } = .next (drop k c p { s with txBusy := busy })) : OnlyRoutes i s :=
  .of_routeTo k.route c p (u := s.bump k.counter) (sameReceiver_refl s) (sameSerializer_refl s) h

theorem onlyRoutes_setCity (p : List Byte) (s : State) : OnlyRoutes (.setCity p) s := by
  cases hr : s.cfg.role with
  | display => exact .of_drop .unimplemented s.cfg.cmdSetCity p fun _ => execSetCity_display hr
  | connectivity =>
    rcases Nat.lt_or_ge 31 p.length with hp | hp
    · exact .of_drop .badPayload s.cfg.cmdSetCity p fun _ => execSetCity_tooLong hr hp
    · exact .of_routeTo .citySet s.cfg.cmdSetCity p
        (u := { s with activeCity := s.activeCity.writeBytes 0 (cityPad p), forceRefresh := true })
        (sameReceiver_refl s) (sameSerializer_refl s) fun _ => execSetCity_stored hr hp

/-- R151: what any frame row does, for the two values of `tx_busy` side by side. -/
theorem onlyRoutes_or_offersReply {i : Instr} (hi : i.isFrame = true) (s : State) :
    OnlyRoutes i s ∨ OffersReply i s := by
  cases i with
  | getWeather p =>
    cases hr : s.cfg.role with
    | connectivity =>
      exact .inr ⟨.weatherFetch, s.cfg.cmdGetWeather, p, s.cfg.cmdAck, [], Nat.zero_le 128,
        fun _ => execGetWeather_connectivity hr⟩
    | display => exact .inl (.of_route .weatherData s.cfg.cmdGetWeather p fun _ => execGetWeather_display hr)
  | getTime p => exact .inl (.of_drop .unimplemented s.cfg.cmdGetTime p fun _ => rfl)
  | setTime p => exact .inl (.of_drop .unimplemented s.cfg.cmdSetTime p fun _ => rfl)
  | setCity p => exact .inl (onlyRoutes_setCity p s)
  | getForecast p => exact .inl (.of_drop .unimplemented s.cfg.cmdGetForecast p fun _ => rfl)
  | systemStatusReq =>
    exact .inr ⟨.statusReq, s.cfg.cmdSystemStatus, [], s.cfg.cmdSystemStatus, record s.cfg s.env,
      length_record_le s.cfg s.env, fun _ => execSystemStatusReq_eq _⟩
  | systemStatusReport p => exact .inl (.of_route .statusReport s.cfg.cmdSystemStatus p fun _ => rfl)
  | ack p => exact .inl (.of_route .ack s.cfg.cmdAck p fun _ => rfl)
  | nack p => exact .inl (.of_route .nack s.cfg.cmdNack p fun _ => rfl)
  | error p => exact .inl (.of_route .error s.cfg.cmdError p fun _ => rfl)
  | unknownCommand cmd p => exact .inl (.of_drop .unknownCommand cmd p fun _ => rfl)
  | rxByte | rxTick | txReq | txPop | txAbort | forceRefreshClr | reset | xor8 | encode => cases hi

/-- Settles O39: a row that only routes has its next state, and a reply has one with the serializer busy or idle. -/
theorem dispatchNeverFails : Obligations.DispatchNeverFails := by
  intro i s hi
  rcases onlyRoutes_or_offersReply hi s with ⟨t, hroute, -, hrx, -, h⟩ | ⟨r, c, p, cmd, q, hq, h⟩
  · exact ⟨_, h s.txBusy, hroute, hrx⟩
  · cases hb : s.txBusy with
    | true => exact ⟨_, (h s.txBusy).trans (submitReply_routeTo_busy r c p hb), by simp [routed], sameReceiver_refl s⟩
    | false =>
      exact ⟨_, (h s.txBusy).trans (submitReply_routeTo_idle r c p hb hq), by simp [routed], sameReceiver_refl s⟩

/-- Settles O30: a row that only routes does the same in both states; a row that replies differs by `submitReply`. -/
theorem replyIsSkippedWhenBusy : Obligations.ReplyIsSkippedWhenBusy := by
  intro i s hi hb
  rcases onlyRoutes_or_offersReply hi s with ⟨t, -, hreply, -, ⟨-, htx⟩, h⟩ | ⟨r, c, p, cmd, q, hq, h⟩
  · exact ⟨_, _, h s.txBusy, h false, ⟨rfl, htx⟩, by simp [hreply], by simp [hreply], fun _ => ⟨hreply, rfl⟩,
      rfl, rfl, rfl⟩
  · exact ⟨_, _, (h s.txBusy).trans (submitReply_routeTo_busy r c p hb),
      (h false).trans (submitReply_routeTo_idle r c p rfl hq), sameSerializer_refl s, by simp, fun _ => rfl,
      fun hnone => absurd rfl (hnone cmd q), rfl, rfl, rfl⟩

end Sys2Proof.Machine
end

section
/-! The accepting step (R150, R172): of the events only `RX_BYTE` accepts a frame, and only an acceptance dispatches. -/

namespace Sys2Proof.Machine

open Sys2Proof.Spec

/-- An output record sets a route exactly where it accepts a frame, that frame's, and replies in no other case. -/
def RoutesWhatItAccepts (o : Out) : Prop :=
  (∀ f, o.rxEv = some (.accepted f) → ∃ r, o.route = some ⟨r, f.command, f.length, f.payload⟩) ∧
    (o.route ≠ none → Accepts o) ∧ (o.reply ≠ none → Accepts o)

theorem RoutesWhatItAccepts.of_accepted {o : Out} {f : Frame} {r : Route} (hrx : o.rxEv = some (.accepted f))
    (hroute : o.route = some ⟨r, f.command, f.length, f.payload⟩) : RoutesWhatItAccepts o := by
  refine ⟨fun g hg => ?_, fun _ => ⟨f, hrx⟩, fun _ => ⟨f, hrx⟩⟩
  obtain rfl : f = g := by simpa [hrx] using hg
  exact ⟨r, hroute⟩

theorem RoutesWhatItAccepts.of_none {o : Out} (hrx : ∀ f, o.rxEv ≠ some (.accepted f)) (hroute : o.route = none)
    (hreply : o.reply = none) : RoutesWhatItAccepts o :=
  ⟨fun f hf => absurd hf (hrx f), fun h => absurd hroute h, fun h => absurd hreply h⟩

theorem RoutesWhatItAccepts.of_transmit (tx : Option TxEv) : RoutesWhatItAccepts { Out.silent with txEv := tx } :=
  .of_none (by simp [Out.silent]) rfl rfl

theorem RoutesWhatItAccepts.of_receive {e : RxEv} (he : ∀ f, e ≠ .accepted f) :
    RoutesWhatItAccepts { Out.silent with rxEv := some e } := .of_none (by simpa using he) rfl rfl

/-- R107: the extracted length field counts the extracted payload. -/
theorem lengthByte_of_extractFrame {s : State} {f : Frame} (h : extractFrame s = some f) :
    lengthByte f.payload = f.length := by
  obtain ⟨-, rfl⟩ := extractFrame_eq_some h
  exact lengthByte_of_length (Memory.length_readBytes ..)

theorem routesWhatItAccepts_rxByte {b : Byte} {s t : State} (h : execRxByte b s = .next t) :
    RoutesWhatItAccepts t.out := by
  rcases execRxByte_shape h with ⟨-, -, rfl⟩ | ⟨-, -, rfl⟩ | ⟨-, -, exp, valid, -, rfl | rfl | rfl | ⟨f, hf, -, ha⟩⟩
  · exact .of_receive (by simp)
  · exact .of_receive (by simp)
  · exact .of_receive (by simp)
  · exact .of_receive (by simp)
  · exact .of_receive (by simp)
  · obtain ⟨-, -, -, -, ⟨hrx, -, -⟩, r, hroute⟩ := acceptFrame_keeps ha
    exact .of_accepted hrx (lengthByte_of_extractFrame hf ▸ hroute)

theorem routesWhatItAccepts_rxTick {s t : State} (h : execRxTick s = .next t) : RoutesWhatItAccepts t.out := by
  rcases execRxTick_next h with ⟨-, rfl⟩ | ⟨-, -, rfl⟩ | ⟨-, -, rfl⟩
  · exact .of_transmit none
  · exact .of_receive (by simp)
  · exact .of_transmit none

theorem routesWhatItAccepts_txReq {cmd : Byte} {p : List Byte} {s t : State} (h : execTxReq cmd p s = .next t) :
    RoutesWhatItAccepts t.out := by
  rcases execTxReq_next h with ⟨-, rfl⟩ | ⟨-, -, rfl⟩ | ⟨-, -, rfl⟩ <;> exact .of_transmit _

theorem routesWhatItAccepts_txPop {s t : State} (h : execTxPop s = .next t) : RoutesWhatItAccepts t.out := by
  rcases execTxPop_next h with ⟨-, rfl⟩ | ⟨-, -, -, rfl⟩ | ⟨-, -, -, rfl⟩ <;> exact .of_transmit _

theorem routesWhatItAccepts_txAbort {s t : State} (h : execTxAbort s = .next t) : RoutesWhatItAccepts t.out := by
  rcases execTxAbort_next h with ⟨-, rfl⟩ | ⟨-, rfl⟩ <;> exact .of_transmit _

theorem routesWhatItAccepts_event {e : Event} {s t : State} (h : exec e.instr s = .next t) :
    RoutesWhatItAccepts t.out := by
  cases e with
  | rxByte b => exact routesWhatItAccepts_rxByte h
  | rxTick => exact routesWhatItAccepts_rxTick h
  | txReq cmd p => exact routesWhatItAccepts_txReq h
  | txPop => exact routesWhatItAccepts_txPop h
  | txAbort => exact routesWhatItAccepts_txAbort h
  | reset | forceRefreshClr =>
    obtain rfl := Host.Outcome.next.inj h
    exact .of_transmit none

/-- Settles O37, by the event that is delivered, if one is. -/
theorem everyAcceptedFrameHasOneRoute : Obligations.EveryAcceptedFrameHasOneRoute := by
  intro s t h
  obtain ⟨-, ⟨-, rfl⟩ | ⟨i, rest, -, he⟩⟩ := step_next h
  · exact RoutesWhatItAccepts.of_transmit none
  · exact routesWhatItAccepts_event he

end Sys2Proof.Machine
end

section
/-! What holds between steps (R15, R18, R19), unit by unit: every event and every dispatched frame keeps it. -/

namespace Sys2Proof.Machine

/-- The invariant's share of the decoder: R15, and its space in canonical form. -/
def State.ReceiverInv (s : State) : Prop := s.DecoderInv ∧ s.rxAcc.wf = true ∧ s.rxAcc.within 132 = true

/-- The invariant's share of the serializer: R18, its space in canonical form, and the widths, which R18 leaves open
while no frame is pending. -/
def State.TransmitterInv (s : State) : Prop :=
  s.SerializerInv ∧ (s.txBuf.wf = true ∧ s.txBuf.within 132 = true) ∧ s.txN < 2 ^ 8 ∧ s.txIdx < 2 ^ 8

/-- The invariant's share of the dispatcher: R19, R159, and the city register in canonical form. -/
def State.DispatcherInv (s : State) : Prop := s.CityInv ∧ s.activeCity.wf = true ∧ s.activeCity.within 32 = true

/-- R15's bounds fit the decoder's counts into their widths. -/
theorem receiver_widths {s : State} (hw : s.cfg.wf = true) (h : s.DecoderInv) :
    s.rxN < 2 ^ 8 ∧ s.rxStall < 2 ^ 16 := by
  obtain ⟨hidle, hacc, -, -, hstall⟩ := h
  obtain ⟨-, -, hlimit, -⟩ := (Cfg.wf_iff _).mp hw
  refine ⟨?_, by omega⟩
  cases hf : s.rxFsm with
  | idle =>
    obtain ⟨hn, -⟩ := hidle hf
    omega
  | accumulating =>
    obtain ⟨-, hn, -⟩ := hacc hf
    omega

/-- The units share no register, so each one's share of the invariant can be kept by itself. -/
theorem inv_iff {s : State} :
    s.Inv ↔ s.cfg.wf = true ∧ s.ReceiverInv ∧ s.TransmitterInv ∧ s.DispatcherInv := by
  constructor
  · rintro ⟨hw, hdec, hser, hcity, ⟨hrxm, htxm, hcm⟩, -, -, hn, hi⟩
    exact ⟨hw, ⟨hdec, hrxm⟩, ⟨hser, htxm, hn, hi⟩, hcity, hcm⟩
  · rintro ⟨hw, ⟨hdec, hrxm⟩, ⟨hser, htxm, hn, hi⟩, hcity, hcm⟩
    obtain ⟨hrn, hrs⟩ := receiver_widths hw hdec
    exact ⟨hw, hdec, hser, hcity, ⟨hrxm, htxm, hcm⟩, hrn, hrs, hn, hi⟩

/-! The decoder. -/

/-- R15 in `Idle`. -/
theorem receiverInv_of_idle {s : State} (hw : s.cfg.wf = true) (hf : s.rxFsm = .idle) (hn : s.rxN = 0)
    (hv : s.rxExpValid = false) (ht : s.rxStall = 0) (hm : s.rxAcc.wf = true ∧ s.rxAcc.within 132 = true) :
    s.ReceiverInv := by
  obtain ⟨-, hlimit, -⟩ := (Cfg.wf_iff _).mp hw
  refine ⟨⟨fun _ => ⟨hn, hv, ht⟩, ?_, ?_, ?_, ?_⟩, hm⟩
  · simp [hf]
  · simp [hf, hv]
  · simp [hv]
  · omega

/-- R15 in `Accumulating`, with no stall: either the length field is still to come, or it is latched and the frame is
not complete. -/
theorem receiverInv_of_accumulating {s : State} (hw : s.cfg.wf = true) (hf : s.rxFsm = .accumulating)
    (hstart : s.rxAcc.read 0 = s.cfg.start) (ht : s.rxStall = 0)
    (hm : s.rxAcc.wf = true ∧ s.rxAcc.within 132 = true)
    (h : (s.rxExpValid = false ∧ 1 ≤ s.rxN ∧ s.rxN ≤ 3) ∨
      (s.rxExpValid = true ∧ s.rxExp = s.rxAcc.read 2 ∧ s.rxExp.toNat ≤ 128 ∧ 4 ≤ s.rxN ∧ s.rxN < 4 + s.rxExp.toNat)) :
    s.ReceiverInv := by
  obtain ⟨-, hlimit, -⟩ := (Cfg.wf_iff _).mp hw
  refine ⟨⟨by simp [hf], fun _ => ?_, ?_, fun hv => ?_, by omega⟩, hm⟩
  · rcases h with ⟨-, hlo, hhi⟩ | ⟨-, -, hexp, hlo, hhi⟩ <;> exact ⟨by omega, by omega, hstart⟩
  · rcases h with ⟨hv, -, hhi⟩ | ⟨hv, -, -, hlo, -⟩
    · simp [hv, hf]; omega
    · simp [hv, hf, hlo]
  · rcases h with ⟨hv', -⟩ | ⟨-, hread, hexp, hlo, hhi⟩
    · simp [hv'] at hv
    · exact ⟨hread, by omega, hexp, hlo, by omega⟩

/-- R101. -/
theorem receiverInv_startedFrame {s : State} (hw : s.cfg.wf = true) (h : s.ReceiverInv) :
    (startedFrame s.cfg.start s).ReceiverInv := by
  obtain ⟨-, hwf, hin⟩ := h
  exact receiverInv_of_accumulating hw rfl (Memory.read_write_same ..) rfl
    ⟨Memory.wf_write 0 _ hwf, Memory.within_write _ (by omega) hin⟩ (.inl ⟨rfl, Nat.le_refl 1, by simp [startedFrame]⟩)

section appended

variable {b : Byte} {s : State} (hf : s.rxFsm = .accumulating) (h : s.ReceiverInv)

include hf h

/-- What R15 says of a state whose next byte has just been appended (R103): the accumulator still begins with `START`,
and a latched length field is still the one received. -/
theorem appended_of_receiverInv :
    (appended b s).rxAcc.read 0 = s.cfg.start ∧
      ((appended b s).rxAcc.wf = true ∧ (appended b s).rxAcc.within 132 = true) ∧
      1 ≤ s.rxN ∧ s.rxN < 132 ∧ (s.rxExpValid = true ↔ 4 ≤ s.rxN) ∧
      (s.rxExpValid = true → s.rxExp = (appended b s).rxAcc.read 2 ∧ s.rxExp.toNat ≤ 128) := by
  obtain ⟨⟨-, hacc, hvalid, hexp, -⟩, hwf, hin⟩ := h
  obtain ⟨hlo, hhi, hstart⟩ := hacc hf
  refine ⟨?_, ⟨Memory.wf_write _ b hwf, Memory.within_write b (by omega) hin⟩, hlo, by omega,
    by simpa [hf] using hvalid, fun hv => ?_⟩
  · exact (Memory.read_write_other _ b (by omega)).trans hstart
  · obtain ⟨hread, -, hle, hn, -⟩ := hexp hv
    exact ⟨hread.trans (appended_read_length (by omega)).symm, hle⟩

/-- R104, R106: the fourth byte latches the length, and the frame is longer than its header. -/
theorem receiverInv_latched (hw : s.cfg.wf = true) (hdue : (appended b s).lengthDue = true)
    (hle : ((appended b s).rxAcc.read 2).toNat ≤ 128)
    (hc : (latched b ((appended b s).rxAcc.read 2) true s).frameComplete = false) :
    (latched b ((appended b s).rxAcc.read 2) true s).ReceiverInv := by
  obtain ⟨hstart, hm, -⟩ := appended_of_receiverInv (b := b) hf h
  have hn : 4 ≤ (appended b s).rxN := ((lengthDue_iff _).mp hdue).2
  have hlt : ¬ 4 + ((appended b s).rxAcc.read 2).toNat ≤ (appended b s).rxN := fun hge =>
    Bool.false_ne_true (hc.symm.trans ((frameComplete_iff _).mpr ⟨rfl, hge⟩))
  exact receiverInv_of_accumulating hw hf hstart rfl hm (.inr ⟨rfl, rfl, hle, hn, Nat.not_le.mp hlt⟩)

/-- R103, R106: a byte is stored before the length field is due, or after it was latched. -/
theorem receiverInv_appended (hw : s.cfg.wf = true) (hdue : (appended b s).lengthDue = false)
    (hc : (appended b s).frameComplete = false) : (appended b s).ReceiverInv := by
  obtain ⟨hstart, hm, -, -, hvalid, hexp⟩ := appended_of_receiverInv (b := b) hf h
  refine receiverInv_of_accumulating hw hf hstart rfl hm ?_
  cases hv : s.rxExpValid with
  | false =>
    have hn : ¬ 4 ≤ (appended b s).rxN := fun hge =>
      Bool.false_ne_true (hdue.symm.trans ((lengthDue_iff _).mpr ⟨hv, hge⟩))
    exact .inl ⟨hv, Nat.le_add_left 1 s.rxN, by omega⟩
  | true =>
    have hlt : ¬ 4 + s.rxExp.toNat ≤ (appended b s).rxN := fun hge =>
      Bool.false_ne_true (hc.symm.trans ((frameComplete_iff _).mpr ⟨hv, hge⟩))
    obtain ⟨hread, hle⟩ := hexp hv
    exact .inr ⟨hv, hread, hle, Nat.le_succ_of_le (hvalid.mp hv), Nat.not_le.mp hlt⟩

end appended

/-! The serializer. -/

/-- R18 asks nothing of an idle serializer. -/
theorem transmitterInv_of_idle {s : State} (hb : s.txBusy = false)
    (hm : s.txBuf.wf = true ∧ s.txBuf.within 132 = true) (hn : s.txN < 2 ^ 8) (hi : s.txIdx < 2 ^ 8) :
    s.TransmitterInv :=
  ⟨fun h => absurd (hb.symm.trans h) Bool.false_ne_true, hm, hn, hi⟩

/-- R132: the image loaded is a frame, as R18 describes it. -/
theorem transmitterInv_loaded {cmd : Byte} {p : List Byte} {s : State} (hp : p.length ≤ 128) (h : s.TransmitterInv) :
    (loaded cmd p s).TransmitterInv := by
  obtain ⟨-, ⟨hwf, hin⟩, -⟩ := h
  have hread : ∀ k, k < 4 → (loaded cmd p s).txBuf.read k = (frameImage s.cfg cmd p).getD k 0 := fun k hk => by
    rw [loaded, Memory.read_writeBytes, length_frameImage, if_pos (by omega), Nat.sub_zero]
  have hpayload : (loaded cmd p s).txBuf.readBytes 4 p.length = p := Memory.readBytes_writeBytes_same _ 4 p
  refine ⟨fun _ => ⟨?_, ?_, ?_, hread 0 (by omega), ?_, ?_⟩,
    ⟨Memory.wf_writeBytes 0 _ hwf, Memory.within_writeBytes (by rw [length_frameImage]; omega) hin⟩, ?_, ?_⟩
  · exact Nat.le_add_left 4 _
  · exact Nat.add_le_add_right hp 4
  · exact Nat.succ_pos _
  · rw [hread 2 (by omega)]
    exact zextLength_lengthByte hp
  · rw [hread 3 (by omega)]
    exact congrArg xor8 hpayload.symm
  · show p.length + 4 < 2 ^ 8
    omega
  · exact Nat.two_pow_pos 8

/-! The dispatcher. -/

/-- R157: a city string leaves the register's last byte 0x00. -/
theorem dispatcherInv_of_cityStored {p : List Byte} {s : State} (hr : s.cfg.role = .connectivity) (hp : p.length ≤ 31)
    (h : s.DispatcherInv) :
    State.DispatcherInv { s with activeCity := s.activeCity.writeBytes 0 (cityPad p), forceRefresh := true } := by
  obtain ⟨-, hwf, hin⟩ := h
  refine ⟨⟨?_, fun hd => absurd (hr.symm.trans hd) (by decide)⟩, Memory.wf_writeBytes 0 _ hwf,
    Memory.within_writeBytes (by rw [cityPad_length hp]) hin⟩
  exact (read_writeBytes_cityPad s.activeCity hp (by omega)).trans (if_neg (by omega))

/-- R220: `CITY_RESET` is a city register's content (R5). -/
theorem dispatcherInv_of_cityReset {s : State} (hw : s.cfg.wf = true)
    (hc : s.activeCity = Memory.ofBytes s.cfg.cityReset) (hr : s.forceRefresh = false) : s.DispatcherInv := by
  obtain ⟨-, -, -, hlen, hlast⟩ := (Cfg.wf_iff _).mp hw
  refine ⟨⟨?_, fun _ => ⟨?_, hr⟩⟩, ?_, ?_⟩
  · rw [hc, Memory.read_ofBytes, List.getD_eq_getElem?_getD]
    rw [List.getLast?_eq_getElem?, hlen] at hlast
    rw [hlast, Option.getD_some]
  · rw [hc, ← hlen, Memory.readBytes_ofBytes]
  · rw [hc]
    exact Memory.wf_ofBytes _
  · rw [hc]
    exact Memory.within_ofBytes hlen.le

/-! The events and the frames. -/

/-- R150: whatever a dispatched frame does, it submits a whole frame and stores a whole city string or neither. -/
theorem inv_dispatch {f : Frame} {s t : State} (hs : s.Inv) (h : dispatch f s = .next t) : t.Inv := by
  obtain ⟨hw, hrx, htx, hcity⟩ := inv_iff.mp hs
  rcases dispatch_next h with ⟨r, -, rfl⟩ | ⟨k, rfl⟩ | ⟨-, hr, hp, rfl⟩ | ⟨r, cmd, p, -, hreply⟩
  · exact inv_iff.mpr ⟨hw, hrx, htx, hcity⟩
  · exact inv_iff.mpr ⟨hw, hrx, htx, hcity⟩
  · exact inv_iff.mpr ⟨hw, hrx, htx, dispatcherInv_of_cityStored hr hp hcity⟩
  · rcases submitReply_next hreply with ⟨-, rfl⟩ | ⟨-, hp, rfl⟩
    · exact inv_iff.mpr ⟨hw, hrx, htx, hcity⟩
    · have hload : (loaded cmd p s).TransmitterInv := transmitterInv_loaded hp htx
      exact inv_iff.mpr ⟨hw, hrx, hload, hcity⟩

section toIdle

variable {s : State} (hw : s.cfg.wf = true) (hm : s.rxAcc.wf = true ∧ s.rxAcc.within 132 = true)
  (htx : s.TransmitterInv) (hcity : s.DispatcherInv)

include hw hm htx hcity

/-- R198: a discard restores the decoder's share of the invariant, whatever its registers held. -/
theorem inv_discardFrame (k : DiscardCause) : (discardFrame k s).Inv :=
  inv_iff.mpr ⟨hw, receiverInv_of_idle hw rfl rfl rfl rfl hm, htx, hcity⟩

/-- R109: so does an acceptance, which is back in `Idle` before it dispatches. -/
theorem inv_acceptFrame {f : Frame} {t : State} (h : acceptFrame f s = .next t) : t.Inv :=
  inv_dispatch (s := ((s.bump .rxAccept).setRxEv (.accepted f)).toIdle)
    (inv_iff.mpr ⟨hw, receiverInv_of_idle hw rfl rfl rfl rfl hm, htx, hcity⟩) h

end toIdle

theorem inv_rxByte {b : Byte} {s t : State} (hs : s.Inv) (h : execRxByte b s = .next t) : t.Inv := by
  obtain ⟨hw, hrx, htx, hcity⟩ := inv_iff.mp hs
  rcases execRxByte_next h with ⟨-, rfl, rfl⟩ | ⟨-, -, rfl⟩ | ⟨hf, -, happ⟩
  · exact inv_iff.mpr ⟨hw, receiverInv_startedFrame hw hrx, htx, hcity⟩
  · exact inv_iff.mpr ⟨hw, hrx, htx, hcity⟩
  · obtain ⟨-, hm, -⟩ := appended_of_receiverInv (b := b) hf hrx
    rcases afterAppend_next happ with ⟨-, -, rfl⟩ | ⟨u, hu, hend⟩
    · exact inv_discardFrame (s := appended b s) hw hm htx hcity .badLength
    · obtain ⟨hwu, hmu, htxu, hcityu, hstored⟩ :
          u.cfg.wf = true ∧ (u.rxAcc.wf = true ∧ u.rxAcc.within 132 = true) ∧ u.TransmitterInv ∧ u.DispatcherInv ∧
            (u.frameComplete = false → u.ReceiverInv) := by
        rcases hu with ⟨hdue, hle, rfl⟩ | ⟨hdue, rfl⟩
        · exact ⟨hw, hm, htx, hcity, receiverInv_latched hf hrx hw hdue hle⟩
        · exact ⟨hw, hm, htx, hcity, receiverInv_appended hf hrx hw hdue⟩
      rcases hend with ⟨hc, rfl⟩ | ⟨-, f, -, ⟨-, hacc⟩ | ⟨-, rfl⟩⟩
      · exact inv_iff.mpr ⟨hwu, hstored hc, htxu, hcityu⟩
      · exact inv_acceptFrame hwu hmu htxu hcityu hacc
      · exact inv_discardFrame hwu hmu htxu hcityu .badChecksum

theorem inv_rxTick {s t : State} (hs : s.Inv) (h : execRxTick s = .next t) : t.Inv := by
  obtain ⟨hw, ⟨⟨hidle, hacc, hvalid, hexp, hstall⟩, hm⟩, htx, hcity⟩ := inv_iff.mp hs
  rcases execRxTick_next h with ⟨-, rfl⟩ | ⟨-, -, rfl⟩ | ⟨hf, hlt, rfl⟩
  · exact inv_iff.mpr ⟨hw, ⟨⟨hidle, hacc, hvalid, hexp, hstall⟩, hm⟩, htx, hcity⟩
  · exact inv_discardFrame (s := s.beginStep) hw hm htx hcity .timeout
  · exact inv_iff.mpr ⟨hw, ⟨⟨by simp [hf], hacc, hvalid, hexp, hlt⟩, hm⟩, htx, hcity⟩

theorem inv_txReq {cmd : Byte} {p : List Byte} {s t : State} (hs : s.Inv) (h : execTxReq cmd p s = .next t) :
    t.Inv := by
  obtain ⟨hw, hrx, htx, hcity⟩ := inv_iff.mp hs
  rcases execTxReq_next h with ⟨-, rfl⟩ | ⟨-, -, rfl⟩ | ⟨hp, -, rfl⟩
  · exact inv_iff.mpr ⟨hw, hrx, htx, hcity⟩
  · exact inv_iff.mpr ⟨hw, hrx, htx, hcity⟩
  · have hload : (loaded cmd p s).TransmitterInv := transmitterInv_loaded hp htx
    exact inv_iff.mpr ⟨hw, hrx, hload, hcity⟩

theorem inv_txPop {s t : State} (hs : s.Inv) (h : execTxPop s = .next t) : t.Inv := by
  obtain ⟨hw, hrx, htx, hcity⟩ := inv_iff.mp hs
  have ⟨hser, hm, hn, hi⟩ := htx
  rcases execTxPop_next h with ⟨-, rfl⟩ | ⟨hb, -, hnext, rfl⟩ | ⟨-, -, -, rfl⟩
  · exact inv_iff.mpr ⟨hw, hrx, htx, hcity⟩
  · obtain ⟨hlo, hhi, -, himage⟩ := hser hb
    exact inv_iff.mpr ⟨hw, hrx, ⟨fun _ => ⟨hlo, hhi, hnext, himage⟩, hm, hn, hnext.trans hn⟩, hcity⟩
  · exact inv_iff.mpr ⟨hw, hrx, transmitterInv_of_idle rfl hm hn hi, hcity⟩

theorem inv_txAbort {s t : State} (hs : s.Inv) (h : execTxAbort s = .next t) : t.Inv := by
  obtain ⟨hw, hrx, htx, hcity⟩ := inv_iff.mp hs
  rcases execTxAbort_next h with ⟨-, rfl⟩ | ⟨-, rfl⟩
  · obtain ⟨-, hm, hn, hi⟩ := htx
    exact inv_iff.mpr ⟨hw, hrx, transmitterInv_of_idle rfl hm hn hi, hcity⟩
  · exact inv_iff.mpr ⟨hw, hrx, htx, hcity⟩

theorem inv_reset {s t : State} (hs : s.Inv) (h : execReset s = .next t) : t.Inv := by
  obtain ⟨hw, ⟨-, hrxm⟩, ⟨-, htxm, hn, hi⟩, -⟩ := inv_iff.mp hs
  obtain rfl := Host.Outcome.next.inj h
  exact inv_iff.mpr ⟨hw, receiverInv_of_idle hw rfl rfl rfl rfl hrxm, transmitterInv_of_idle rfl htxm hn hi,
    dispatcherInv_of_cityReset hw rfl rfl⟩

theorem inv_forceRefreshClr {s t : State} (hs : s.Inv) (h : execForceRefreshClr s = .next t) : t.Inv := by
  obtain ⟨hw, hrx, htx, ⟨hlast, hdisplay⟩, hm⟩ := inv_iff.mp hs
  obtain rfl := Host.Outcome.next.inj h
  exact inv_iff.mpr ⟨hw, hrx, htx, ⟨hlast, fun hr => ⟨(hdisplay hr).1, rfl⟩⟩, hm⟩

theorem inv_event {e : Event} {s t : State} (hs : s.Inv) (h : exec e.instr s = .next t) : t.Inv := by
  cases e with
  | rxByte b => exact inv_rxByte hs h
  | rxTick => exact inv_rxTick hs h
  | txReq cmd p => exact inv_txReq hs h
  | txPop => exact inv_txPop hs h
  | txAbort => exact inv_txAbort hs h
  | reset => exact inv_reset hs h
  | forceRefreshClr => exact inv_forceRefreshClr hs h

/-- The invariant does not speak of the inputs, delivered or pending. -/
theorem inv_deliver {i : Input} {rest : List Input} {s : State} (hs : s.Inv) : (s.deliver i rest).Inv := by
  obtain ⟨hw, hrx, htx, hcity⟩ := inv_iff.mp hs
  exact inv_iff.mpr ⟨hw, hrx, htx, hcity⟩

/-- Nor does it speak of the outputs. -/
theorem inv_beginStep {s : State} (hs : s.Inv) : s.beginStep.Inv := by
  obtain ⟨hw, hrx, htx, hcity⟩ := inv_iff.mp hs
  exact inv_iff.mpr ⟨hw, hrx, htx, hcity⟩

/-- Every step, with an event or without one, keeps the invariant. -/
theorem inv_step {s t : State} (hs : s.Inv) (h : step s = .next t) : t.Inv := by
  obtain ⟨-, ⟨-, rfl⟩ | ⟨i, rest, -, he⟩⟩ := step_next h
  · exact inv_beginStep hs
  · exact inv_event (inv_deliver hs) he

end Sys2Proof.Machine
end

section
/-! Nothing stops the block (R202): from a state that meets the invariant every event answers a next state, because the
invariant keeps every access inside its space. -/

namespace Sys2Proof.Machine

/-- R106 to R110: a complete frame whose length field is a legal one is accepted or discarded. -/
theorem storeOrComplete_total {s : State} (h : s.frameComplete = true → (s.rxAcc.read 2).toNat ≤ 128) :
    ∃ t, storeOrComplete s = .next t := by
  unfold storeOrComplete
  split
  · next hc =>
    rw [completeFrame_of_le (h hc)]
    split
    · exact acceptFrame_total _ s
    · exact ⟨_, rfl⟩
  · exact ⟨_, rfl⟩

/-- R104, R105: an illegal length field is rejected when it is due, so one that is latched is legal. -/
theorem afterAppend_total {s : State} (h : s.rxExpValid = true → (s.rxAcc.read 2).toNat ≤ 128) :
    ∃ t, afterAppend s = .next t := by
  unfold afterAppend
  split
  · split
    · exact ⟨_, rfl⟩
    · next hle => exact storeOrComplete_total fun _ => Nat.not_lt.mp hle
  · exact storeOrComplete_total fun hc => h ((frameComplete_iff s).mp hc).1

theorem rxByte_total {s : State} (hs : s.Inv) (b : Byte) : ∃ t, execRxByte b s = .next t := by
  cases hf : s.rxFsm with
  | idle =>
    by_cases hb : b = s.cfg.start
    · exact ⟨_, execRxByte_start hf hb⟩
    · exact ⟨_, execRxByte_stray hf hb⟩
  | accumulating =>
    obtain ⟨-, hrx, -⟩ := inv_iff.mp hs
    obtain ⟨-, -, -, hn, -, hexp⟩ := appended_of_receiverInv (b := b) hf hrx
    rw [execRxByte_append hf hn]
    refine afterAppend_total fun hv => ?_
    obtain ⟨hread, hle⟩ := hexp hv
    exact hread ▸ hle

theorem rxTick_total (s : State) : ∃ t, execRxTick s = .next t := by
  cases hf : s.rxFsm with
  | idle => exact ⟨_, execRxTick_idle hf⟩
  | accumulating =>
    rcases Nat.lt_or_ge (s.rxStall + 1) s.cfg.stallLimit with h | h
    · exact ⟨_, execRxTick_below hf h⟩
    · exact ⟨_, execRxTick_expires hf h⟩

theorem txReq_total (cmd : Byte) (p : List Byte) (s : State) : ∃ t, execTxReq cmd p s = .next t := by
  rcases Nat.lt_or_ge 128 p.length with hp | hp
  · exact ⟨_, execTxReq_tooLong hp⟩
  · cases hb : s.txBusy with
    | true => exact ⟨_, execTxReq_busy hp hb⟩
    | false => exact ⟨_, execTxReq_idle hp hb⟩

/-- R18: a pending frame has a byte at `tx_idx`. -/
theorem txPop_total {s : State} (hs : s.Inv) : ∃ t, execTxPop s = .next t := by
  cases hb : s.txBusy with
  | false => exact ⟨_, execTxPop_idle hb⟩
  | true =>
    obtain ⟨-, hn, hi, -⟩ := hs.serializer hb
    have hlt : s.txIdx < 132 := Nat.lt_of_lt_of_le hi hn
    rcases Nat.lt_or_eq_of_le (Nat.succ_le_of_lt hi) with h | h
    · exact ⟨_, execTxPop_nextByte hb h hlt⟩
    · exact ⟨_, execTxPop_lastByte hb h hlt⟩

theorem txAbort_total (s : State) : ∃ t, execTxAbort s = .next t := by
  cases hb : s.txBusy with
  | true => exact ⟨_, execTxAbort_busy hb⟩
  | false => exact ⟨_, execTxAbort_idle hb⟩

/-- R7: every event is taken in every state between steps. -/
theorem event_total (e : Event) {s : State} (hs : s.Inv) : ∃ t, exec e.instr s = .next t := by
  cases e with
  | rxByte b => exact rxByte_total hs b
  | rxTick => exact rxTick_total s
  | txReq cmd p => exact txReq_total cmd p s
  | txPop => exact txPop_total hs
  | txAbort => exact txAbort_total s
  | reset | forceRefreshClr => exact ⟨_, rfl⟩

theorem stepsSafely_of_inv {s : State} (hs : s.Inv) : s.StepsSafely := by
  cases hi : s.inputs with
  | nil => exact ⟨s.beginStep, by simp [step, hs.cfg, hi]⟩
  | cons i rest =>
    obtain ⟨t, ht⟩ := event_total i.event (inv_deliver (i := i) (rest := rest) hs)
    exact ⟨t, (step_of_input hs.cfg hi).trans ht⟩

/-- Settles O44, by induction on the number of steps: the first answers a next state, which meets the invariant. -/
theorem noRunStops : Obligations.NoRunStops := by
  intro s n hs
  induction n generalizing s with
  | zero => exact ⟨s, coreRun_zero_eq_next.mpr rfl, hs⟩
  | succ n ih =>
    obtain ⟨u, hu⟩ := stepsSafely_of_inv hs
    obtain ⟨t, ht, hinv⟩ := ih u (inv_step hs hu)
    exact ⟨t, coreRun_succ_eq_next.mpr ⟨u, hu, ht⟩, hinv⟩

end Sys2Proof.Machine
end

section
/-! `RESET` (R220): the values it leaves, and that a second one changes nothing (R49). -/

namespace Sys2Proof.Machine

open Sys2Proof.Spec

/-- `CITY_RESET` has the city register's 32 bytes (R5), so the whole register reads back as `CITY_RESET`. -/
theorem readBytes_ofBytes_cityReset {c : Cfg} (hw : c.wf = true) :
    (Memory.ofBytes c.cityReset).readBytes 0 32 = c.cityReset := by
  obtain ⟨-, -, -, hlen, -⟩ := (Cfg.wf_iff c).mp hw
  rw [← hlen, Memory.readBytes_ofBytes]

/-- `RESET` writes constants and parameters of `cfg`, and it keeps `cfg`. -/
theorem execReset_idempotent {s t : State} (h : execReset s = .next t) : execReset t = .next t := by
  obtain rfl := Host.Outcome.next.inj h
  rfl

/-- Settles O40: each value is the one `execReset` writes, the city register reads back as `CITY_RESET` because `cfg` is
well-formed, and the second `RESET` is `execReset_idempotent`. -/
theorem resetLeavesTheResetValues : Obligations.ResetLeavesTheResetValues := by
  intro s hw
  have hcity := readBytes_ofBytes_cityReset hw
  have hsame : execReset s = .next _ := rfl
  exact ⟨_, hsame, rfl, rfl, rfl, rfl, rfl, hcity, rfl, rfl, rfl, ⟨rfl, rfl, rfl⟩, execReset_idempotent hsame⟩

end Sys2Proof.Machine
end

section
/-! The decoder of frames against the encoder (30 section 2, 42): what `decode` takes is exactly an image, with any bytes
after it, and an image cut short is truncated. -/

namespace Sys2Proof

/-- R130, R196: the image of a frame decodes to the row of its command and payload. -/
theorem decode_frameImage_append (c : Cfg) (cmd : Byte) {p : List Byte} (hp : p.length ≤ 128) (tail : List Byte) :
    decode c (frameImage c cmd p ++ tail) = .ok (selectRow c cmd p, tail) := by
  have hlen : zextLength (lengthByte p) = p.length := zextLength_lengthByte hp
  have hmax : ¬ 128 < p.length := Nat.not_lt.mpr hp
  simp [decode, frameImage, hlen, hmax, verify]

theorem decode_frameImage (c : Cfg) (cmd : Byte) {p : List Byte} (hp : p.length ≤ 128) :
    decode c (frameImage c cmd p) = .ok (selectRow c cmd p, []) := by
  simpa using decode_frameImage_append c cmd hp []

/-- Everything `decode` can accept. -/
theorem decode_eq_ok {c : Cfg} {bs tail : List Byte} {i : Instr} (h : decode c bs = .ok (i, tail)) :
    ∃ cmd p, p.length ≤ 128 ∧ i = selectRow c cmd p ∧ bs = frameImage c cmd p ++ tail := by
  unfold decode at h
  split at h
  · cases h
  · split at h
    · cases h
    · next st rest hst =>
      split at h
      · next cmd len cks t =>
        split_ifs at h with hmax htrunc hver
        obtain ⟨rfl, rfl⟩ := Prod.mk.inj (Except.ok.inj h)
        have hlen : (t.take (zextLength len)).length = zextLength len := List.length_take_of_le (Nat.not_lt.mp htrunc)
        refine ⟨cmd, t.take (zextLength len), hlen.trans_le (Nat.not_lt.mp hmax), rfl, ?_⟩
        have hcks : xor8 (t.take (zextLength len)) = cks := (verify_iff _ _).mp hver
        rw [frameImage, lengthByte_of_length hlen, hcks, not_not.mp hst]
        simp
      · cases h

/-- R67: the frame is not complete before its last byte. -/
theorem decode_of_prefix_frameImage {c : Cfg} {cmd b : Byte} {p q r : List Byte} (hp : p.length ≤ 128)
    (h : frameImage c cmd p = q ++ b :: r) : decode c q = .error .truncated := by
  have hlen : zextLength (lengthByte p) = p.length := zextLength_lengthByte hp
  have hmax : ¬ 128 < p.length := Nat.not_lt.mpr hp
  rcases q with _ | ⟨st, _ | ⟨cmd', _ | ⟨len, _ | ⟨cks, q⟩⟩⟩⟩ <;> simp [frameImage] at h
  · rfl
  · simp [decode, h]
  · simp [decode, h]
  · simp [decode, h]
  · obtain ⟨rfl, rfl, rfl, rfl, rfl⟩ := h
    rw [List.length_append, List.length_cons] at hlen hmax
    simp [decode, hlen, hmax]

/-! Under pairwise different ids (R5) the table's first match for a row's own command is that row (R68, R69). -/

section ids

variable {c : Cfg} (hc : c.wf = true) (p : List Byte)

include hc

/-- R5's ids, the last one first: each is then told apart from the ids that are matched before it. -/
theorem nodup_reverse_ids : [c.cmdError, c.cmdNack, c.cmdAck, c.cmdSystemStatus, c.cmdGetForecast, c.cmdSetCity,
    c.cmdSetTime, c.cmdGetTime, c.cmdGetWeather].Nodup :=
  List.nodup_reverse.mpr ((Cfg.wf_iff c).mp hc).1

theorem selectRow_cmdGetTime : selectRow c c.cmdGetTime p = .getTime p := by
  have h := nodup_reverse_ids hc
  simp only [List.nodup_cons, List.mem_cons, not_or] at h
  simp [selectRow, h]

theorem selectRow_cmdSetTime : selectRow c c.cmdSetTime p = .setTime p := by
  have h := nodup_reverse_ids hc
  simp only [List.nodup_cons, List.mem_cons, not_or] at h
  simp [selectRow, h]

theorem selectRow_cmdSetCity : selectRow c c.cmdSetCity p = .setCity p := by
  have h := nodup_reverse_ids hc
  simp only [List.nodup_cons, List.mem_cons, not_or] at h
  simp [selectRow, h]

theorem selectRow_cmdGetForecast : selectRow c c.cmdGetForecast p = .getForecast p := by
  have h := nodup_reverse_ids hc
  simp only [List.nodup_cons, List.mem_cons, not_or] at h
  simp [selectRow, h]

/-- R161, R163: the request is the empty frame, the report any other. -/
theorem selectRow_cmdSystemStatus :
    selectRow c c.cmdSystemStatus p = if p.length = 0 then .systemStatusReq else .systemStatusReport p := by
  have h := nodup_reverse_ids hc
  simp only [List.nodup_cons, List.mem_cons, not_or] at h
  simp [selectRow, h]

theorem selectRow_cmdAck : selectRow c c.cmdAck p = .ack p := by
  have h := nodup_reverse_ids hc
  simp only [List.nodup_cons, List.mem_cons, not_or] at h
  simp [selectRow, h]

theorem selectRow_cmdNack : selectRow c c.cmdNack p = .nack p := by
  have h := nodup_reverse_ids hc
  simp only [List.nodup_cons, List.mem_cons, not_or] at h
  simp [selectRow, h]

theorem selectRow_cmdError : selectRow c c.cmdError p = .error p := by
  have h := nodup_reverse_ids hc
  simp only [List.nodup_cons, List.mem_cons, not_or] at h
  simp [selectRow, h]

end ids

theorem selectRow_cmdGetWeather (c : Cfg) (p : List Byte) : selectRow c c.cmdGetWeather p = .getWeather p := if_pos rfl

theorem selectRow_of_not_mem {c : Cfg} {cmd : Byte} (h : cmd ∉ c.ids) (p : List Byte) :
    selectRow c cmd p = .unknownCommand cmd p := by
  simp only [Cfg.ids, List.mem_cons, List.not_mem_nil, or_false, not_or] at h
  simp [selectRow, h]

/-- Every well-formed frame row is the row of some command and payload a frame can carry. -/
theorem exists_selectRow {c : Cfg} {i : Instr} (hc : c.wf = true) (hi : i.wf c = true) (hf : i.isFrame = true) :
    ∃ cmd p, p.length ≤ 128 ∧ selectRow c cmd p = i := by
  cases i with
  | getWeather p => exact ⟨_, p, of_decide_eq_true hi, selectRow_cmdGetWeather c p⟩
  | getTime p => exact ⟨_, p, of_decide_eq_true hi, selectRow_cmdGetTime hc p⟩
  | setTime p => exact ⟨_, p, of_decide_eq_true hi, selectRow_cmdSetTime hc p⟩
  | setCity p => exact ⟨_, p, of_decide_eq_true hi, selectRow_cmdSetCity hc p⟩
  | getForecast p => exact ⟨_, p, of_decide_eq_true hi, selectRow_cmdGetForecast hc p⟩
  | systemStatusReq => exact ⟨_, [], Nat.zero_le 128, selectRow_cmdSystemStatus hc []⟩
  | systemStatusReport p =>
    obtain ⟨hlo, hhi⟩ := Bool.and_eq_true_iff.mp hi
    have hne : p.length ≠ 0 := Nat.one_le_iff_ne_zero.mp (of_decide_eq_true hlo)
    exact ⟨_, p, of_decide_eq_true hhi, (selectRow_cmdSystemStatus hc p).trans (if_neg hne)⟩
  | ack p => exact ⟨_, p, of_decide_eq_true hi, selectRow_cmdAck hc p⟩
  | nack p => exact ⟨_, p, of_decide_eq_true hi, selectRow_cmdNack hc p⟩
  | error p => exact ⟨_, p, of_decide_eq_true hi, selectRow_cmdError hc p⟩
  | unknownCommand cmd p =>
    obtain ⟨hmem, hlen⟩ := Bool.and_eq_true_iff.mp hi
    exact ⟨cmd, p, of_decide_eq_true hlen, selectRow_of_not_mem (of_decide_eq_true hmem) p⟩
  | rxByte | rxTick | txReq | txPop | txAbort | forceRefreshClr | reset | xor8 | encode => cases hf

/-- Settles O7: the instruction is the row of a command and a payload, whose image is its encoding. -/
theorem decodeOfEncodeIsTheInstruction : Obligations.DecodeOfEncodeIsTheInstruction := by
  intro c i hc hi hf
  obtain ⟨cmd, p, hp, rfl⟩ := exists_selectRow hc hi hf
  exact ⟨frameImage c cmd p, (encode_selectRow c cmd p).trans (encodeFrame_of_le hp), decode_frameImage_append c cmd hp⟩

/-- Settles O8: what `decode` accepts is a selected row, and its bytes are that row's image. -/
theorem decodeAcceptsOnlyImages : Obligations.DecodeAcceptsOnlyImages := by
  intro c bs tail i h
  obtain ⟨cmd, p, hp, rfl, rfl⟩ := decode_eq_ok h
  exact ⟨isFrame_selectRow c cmd p, wf_selectRow c cmd hp, frameImage c cmd p,
    (encode_selectRow c cmd p).trans (encodeFrame_of_le hp), rfl⟩

/-- Settles O10: each word is evaluated by the decoder. -/
theorem wordsOfTheSpecDecode : Obligations.WordsOfTheSpecDecode := ⟨rfl, rfl, rfl, rfl, rfl, rfl, rfl⟩

end Sys2Proof
end

section
/-! The valid frames (R81) are the encoder's images (R141), and the opcode table's first match is the selected row. -/

namespace Sys2Proof

open Sys2Proof.Spec Sys2Proof.Machine

/-- R81 in R130's terms: a valid frame is the image of its own command and payload. -/
theorem valid_iff_exists_wire {c : Cfg} {f : List Byte} :
    Valid c f ↔ ∃ cmd p, p.length ≤ 128 ∧ f = wire c cmd p := by
  constructor
  · rintro ⟨hlen, hstart, hmax, hlength, hcks⟩
    obtain ⟨st, cmd, len, cks, p, rfl⟩ : ∃ st cmd len cks p, f = st :: cmd :: len :: cks :: p := by
      rcases f with _ | ⟨st, _ | ⟨cmd, _ | ⟨len, _ | ⟨cks, p⟩⟩⟩⟩
      on_goal 5 => exact ⟨st, cmd, len, cks, p, rfl⟩
      all_goals simp at hlen
    simp only [List.getD_cons_zero, List.getD_cons_succ, List.length_cons, List.drop_succ_cons, List.drop_zero]
      at hstart hmax hlength hcks
    have hp : p.length = zextLength len := by rw [zextLength]; omega
    refine ⟨cmd, p, hp ▸ hmax, ?_⟩
    rw [← frameImage_eq_wire, frameImage, lengthByte_of_length hp, hstart, hcks]
    rfl
  · rintro ⟨cmd, p, hp, rfl⟩
    have hlen : (BitVec.ofNat 8 p.length).toNat = p.length := zextLength_lengthByte hp
    refine ⟨?_, rfl, ?_, ?_, rfl⟩
    · rw [length_wire]; omega
    · exact hlen.trans_le hp
    · rw [length_wire]; exact congrArg (4 + ·) hlen.symm

theorem validFrame_iff_valid (c : Cfg) (f : List Byte) : validFrame c f = true ↔ Valid c f := by
  rcases f with _ | ⟨st, _ | ⟨cmd, _ | ⟨len, _ | ⟨cks, p⟩⟩⟩⟩
  on_goal 5 => simp [validFrame, Valid, zextLength, and_assoc]; omega
  all_goals simp [validFrame, Valid]

theorem encodeFrame_eq_self_iff (c : Cfg) (f : List Byte) :
    encodeFrame c (f.getD 1 0) (f.drop 4) = some f ↔ Valid c f := by
  rw [valid_iff_exists_wire]
  constructor
  · intro h
    obtain ⟨hp, hf⟩ := encodeFrame_eq_some h
    exact ⟨_, _, hp, hf⟩
  · rintro ⟨cmd, p, hp, rfl⟩
    exact encodeFrame_of_le hp

/-- Settles O4: every direction goes through the image. -/
theorem validFramesAreExactlyTheImages : Obligations.ValidFramesAreExactlyTheImages :=
  ⟨fun c cmd p hp => ⟨encodeFrame_of_le hp, length_wire c cmd p, valid_iff_exists_wire.mpr ⟨cmd, p, hp, rfl⟩⟩,
    fun c f => (encodeFrame_eq_self_iff c f).symm, validFrame_iff_valid⟩

end Sys2Proof
end

section
/-! The header word (R61) byte by byte: a row of the opcode table matches where its bytes match. -/

namespace Sys2Proof

theorem append_eq_append_iff {v w : Nat} {a a' : BitVec v} {b b' : BitVec w} :
    a ++ b = a' ++ b' ↔ a = a' ∧ b = b' := by
  refine ⟨fun h => ⟨?_, ?_⟩, fun ⟨ha, hb⟩ => by rw [ha, hb]⟩
  · simpa only [BitVec.extractLsb'_append_eq_left] using congrArg (BitVec.extractLsb' w v) h
  · simpa only [BitVec.extractLsb'_append_eq_right] using congrArg (BitVec.extractLsb' 0 w) h

theorem headerWord_inj {a b c d a' b' c' d' : Byte} :
    headerWord a b c d = headerWord a' b' c' d' ↔ ((a = a' ∧ b = b') ∧ c = c') ∧ d = d' :=
  append_eq_append_iff.trans (and_congr_left' (append_eq_append_iff.trans (and_congr_left' append_eq_append_iff)))

theorem headerWord_and (a b c d a' b' c' d' : Byte) :
    headerWord a b c d &&& headerWord a' b' c' d' = headerWord (a &&& a') (b &&& b') (c &&& c') (d &&& d') := by
  have hand : ∀ {v w : Nat} (x x' : BitVec v) (y y' : BitVec w), (x ++ y) &&& (x' ++ y') = (x &&& x') ++ (y &&& y') :=
    fun _ _ _ _ => BitVec.and_append
  exact (hand _ _ d d').trans (congrArg (· ++ (d &&& d')) ((hand _ _ c c').trans
    (congrArg (· ++ (c &&& c')) (hand a a' b b'))))

/-- The row of a mnemonic and a command id. -/
def commandRow (mnemonic : String) (id : Byte) : TableRow :=
  ⟨mnemonic, headerWord 0xAA id 0 0, headerWord 0xFF 0xFF 0 0⟩

/-- The row of the empty status frame. -/
def statusRequestRow : TableRow := ⟨"SYSTEM_STATUS_REQ", headerWord 0xAA Cfg.default.cmdSystemStatus 0 0,
  headerWord 0xFF 0xFF 0xFF 0⟩

/-- The row of any frame at all. -/
def anyCommandRow : TableRow := ⟨"UNKNOWN_COMMAND", headerWord 0xAA 0 0 0, headerWord 0xFF 0 0 0⟩

/-- The table's words, cut into bytes, under the default ids. -/
theorem frameRows_eq :
    frameRows =
      [commandRow "GET_WEATHER" Cfg.default.cmdGetWeather, commandRow "GET_TIME" Cfg.default.cmdGetTime,
        commandRow "SET_TIME" Cfg.default.cmdSetTime, commandRow "SET_CITY" Cfg.default.cmdSetCity,
        commandRow "GET_FORECAST" Cfg.default.cmdGetForecast, statusRequestRow,
        commandRow "SYSTEM_STATUS_REPORT" Cfg.default.cmdSystemStatus, commandRow "ACK" Cfg.default.cmdAck,
        commandRow "NACK" Cfg.default.cmdNack, commandRow "ERROR" Cfg.default.cmdError, anyCommandRow] := rfl

/-- The first match of a list of rows, test by test. -/
theorem find?_cons_eq_ite {α : Type} (q : α → Bool) (a : α) (l : List α) :
    (a :: l).find? q = if q a then some a else l.find? q := by
  rw [List.find?_cons]
  cases q a <;> rfl

@[simp] theorem mnemonic_commandRow (mnemonic : String) (id : Byte) : (commandRow mnemonic id).mnemonic = mnemonic := rfl

section rowMatch

theorem and_ff (b : Byte) : b &&& 255#8 = b := BitVec.and_allOnes

variable (cmd len cks : Byte)

theorem commandRow_matches (mnemonic : String) (id : Byte) :
    (headerWord 0xAA cmd len cks &&& (commandRow mnemonic id).mask == (commandRow mnemonic id).pattern) =
      decide (cmd = id) := by
  rw [Bool.eq_iff_iff]
  simp [commandRow, headerWord_and, headerWord_inj, and_ff]

theorem statusRequestRow_matches :
    (headerWord 0xAA cmd len cks &&& statusRequestRow.mask == statusRequestRow.pattern) =
      decide (cmd = Cfg.default.cmdSystemStatus ∧ len = 0) := by
  rw [Bool.eq_iff_iff]
  simp [statusRequestRow, headerWord_and, headerWord_inj, and_ff]

theorem anyCommandRow_matches :
    (headerWord 0xAA cmd len cks &&& anyCommandRow.mask == anyCommandRow.pattern) = true := by
  simp [anyCommandRow, headerWord_and]

end rowMatch

/-- The length field tells the empty frame from every other (R161, R163). -/
theorem ofNat_length_eq_zero_iff {p : List Byte} (hp : p.length ≤ 128) : BitVec.ofNat 8 p.length = 0 ↔ p.length = 0 := by
  rw [← BitVec.toNat_inj]
  exact (zextLength_lengthByte hp).congr_left

/-- The same test, and the same mnemonics on both of its sides. -/
theorem mnemonic_ite {q : Prop} [Decidable q] {r r' : Option TableRow} {i i' : Instr}
    (h : q → r.map TableRow.mnemonic = some i.mnemonic) (h' : ¬ q → r'.map TableRow.mnemonic = some i'.mnemonic) :
    (if q then r else r').map TableRow.mnemonic = some (if q then i else i').mnemonic := by
  split
  · next hq => exact h hq
  · next hq => exact h' hq

/-- Settles O9, row by row: under the default ids the table's tests, in file order, are the decoder's. -/
theorem decodedRowIsTheFirstMatch : Obligations.DecodedRowIsTheFirstMatch := by
  intro cmd p hp
  have hstart : Cfg.default.start = 0xAA := rfl
  simp only [hstart, firstRow, frameRows_eq, find?_cons_eq_ite, commandRow_matches, statusRequestRow_matches,
    anyCommandRow_matches, ofNat_length_eq_zero_iff hp, decide_eq_true_eq, ite_and, selectRow]
  refine mnemonic_ite (fun _ => rfl) fun _ => mnemonic_ite (fun _ => rfl) fun _ => mnemonic_ite (fun _ => rfl) fun _ =>
    mnemonic_ite (fun _ => rfl) fun _ => mnemonic_ite (fun _ => rfl) fun _ => mnemonic_ite (fun hstatus => ?_)
      fun hstatus => ?_
  · exact mnemonic_ite (fun _ => rfl) fun _ => by rw [if_pos hstatus]; rfl
  · rw [if_neg hstatus]
    exact mnemonic_ite (fun _ => rfl) fun _ => mnemonic_ite (fun _ => rfl) fun _ => mnemonic_ite (fun _ => rfl) fun _ => rfl

end Sys2Proof
end

section
/-! What the checksum detects and what it does not (R94, R95): flips add up, bit position by bit position. -/

namespace Sys2Proof

theorem xor8_zipWith {p q : List Byte} (h : p.length = q.length) :
    xor8 (List.zipWith (fun a b => a ^^^ b) p q) = xor8 p ^^^ xor8 q := by
  induction p generalizing q with
  | nil => rw [List.eq_nil_of_length_eq_zero h.symm]; rfl
  | cons a p ih =>
    cases q with
    | nil => cases h
    | cons b q =>
      rw [List.zipWith_cons_cons, xor8_cons, xor8_cons, xor8_cons, ih (Nat.succ.inj h)]
      ac_rfl

/-- A bit of the checksum is the parity of that bit over the bytes. -/
theorem getLsbD_xor8 (p : List Byte) (k : Nat) :
    (xor8 p).getLsbD k = decide (p.countP (fun e => e.getLsbD k) % 2 = 1) := by
  induction p with
  | nil => simp [xor8_nil]
  | cons b p ih =>
    rw [xor8_cons, BitVec.getLsbD_xor, ih, List.countP_cons]
    rw [Bool.eq_iff_iff]
    cases b.getLsbD k
    · simp
    · simp only [Bool.true_bne, Bool.not_eq_true', decide_eq_false_iff_not, if_true, decide_eq_true_eq]
      omega

theorem ne_zero_iff_exists_bit {b : Byte} : b ≠ 0 ↔ ∃ k, k < 8 ∧ b.getLsbD k = true := by
  constructor
  · intro h
    by_contra hno
    refine h (BitVec.eq_of_getLsbD_eq fun k hk => ?_)
    simpa using fun hb => hno ⟨k, hk, hb⟩
  · rintro ⟨k, -, hk⟩ rfl
    simp at hk

theorem verify_eq_false_iff (p : List Byte) (c : Byte) : verify p c = false ↔ xor8 p ^^^ c ≠ 0 := by
  rw [← Bool.not_eq_true, verify_iff, ← BitVec.xor_eq_zero_iff]
  rfl

/-- A change to one byte of a payload is the same change to its checksum. -/
theorem xor8_set_xor {p : List Byte} {i : Nat} (hi : i < p.length) (e : Byte) :
    xor8 (p.set i (p.getD i 0 ^^^ e)) = xor8 p ^^^ e := by
  induction p generalizing i with
  | nil => cases hi
  | cons b p ih =>
    cases i with
    | zero => 
      rw [List.set_cons_zero, List.getD_cons_zero, xor8_cons, xor8_cons]
      ac_rfl
    | succ i =>
      rw [List.set_cons_succ, List.getD_cons_succ, xor8_cons, xor8_cons, ih (Nat.lt_of_succ_lt_succ hi)]
      ac_rfl

theorem oneBit_ne_zero {k : Nat} (hk : k < 8) : 1#8 <<< k ≠ 0 := by
  decide +revert

/-- Settles O2: the flips are the bytes of a list of its own, whose checksum tells the parity of each bit position. -/
theorem oddBitFlipsAreDetected : Obligations.OddBitFlipsAreDetected := by
  refine ⟨fun p p' c c' hlen hv => ?_, fun p c i k hi hk hv => ?_⟩
  · have hsum : xor8 (List.zipWith (fun a b => a ^^^ b) (p ++ [c]) (p' ++ [c'])) = xor8 p' ^^^ c' := by
      rw [xor8_zipWith (by simp [hlen]), xor8_append_singleton, xor8_append_singleton, (verify_iff p c).mp hv,
        BitVec.xor_self, BitVec.zero_xor]
    rw [verify_eq_false_iff, ← hsum, ne_zero_iff_exists_bit]
    simp only [getLsbD_xor8, decide_eq_true_eq]
  · have hbit := oneBit_ne_zero hk
    rw [verify_iff] at hv
    constructor
    · rwa [verify_eq_false_iff, xor8_set_xor hi, hv, BitVec.xor_comm c, BitVec.xor_assoc, BitVec.xor_self,
        BitVec.xor_zero]
    · rwa [verify_eq_false_iff, hv, ← BitVec.xor_assoc, BitVec.xor_self, BitVec.zero_xor]

theorem xor8_perm {p q : List Byte} (h : p.Perm q) : xor8 p = xor8 q := by
  induction h with
  | nil => rfl
  | cons b _ ih => rw [xor8_cons, xor8_cons, ih]
  | swap a b p =>
    simp only [xor8_cons]
    ac_rfl
  | trans _ _ ih ih' => exact ih.trans ih'

/-- Settles O3: each change adds zero to the checksum, or the same byte to both of its sides. -/
theorem cancellingChangesAreUndetected : Obligations.CancellingChangesAreUndetected := by
  refine ⟨fun p i j e hi hj hij => ?_, fun p i c e hi => ?_, fun p q => xor8_perm, fun p q => ?_, fun p q r b => ?_⟩
  · have hget : (p.set i (p.getD i 0 ^^^ e)).getD j 0 = p.getD j 0 := by
      simp [List.getElem?_set_ne hij]
    rw [← hget, xor8_set_xor (by simpa using hj), xor8_set_xor hi, BitVec.xor_assoc, BitVec.xor_self, BitVec.xor_zero]
  · rw [verify, verify, xor8_set_xor hi, Bool.eq_iff_iff]
    simp
  · rw [xor8_append, xor8_cons, xor8_append]
    simp
  · have hpair : xor8 (b :: b :: (q ++ r)) = xor8 (q ++ r) := by
      rw [xor8_cons, xor8_cons, ← BitVec.xor_assoc, BitVec.xor_self, BitVec.zero_xor]
    have hperm : (b :: (q ++ b :: r)).Perm (b :: b :: (q ++ r)) := List.perm_middle.cons b
    rw [xor8_append, xor8_perm hperm, hpair, ← xor8_append]

end Sys2Proof
end

section
/-! Well-formed parameters (R5) and what a step is (R3): the invariant at reset and over a step, the function rows, and
the refusals of an ill-formed `cfg`. -/

namespace Sys2Proof.Machine

open Sys2Proof.Spec

/-- Settles O43. -/
theorem stepKeepsTheInvariant : Obligations.StepKeepsTheInvariant := fun _ _ => inv_step

/-- Settles O42, unit by unit: the decoder and the serializer are idle, and the city register holds `CITY_RESET`. -/
theorem resetStateMeetsTheInvariant : Obligations.ResetStateMeetsTheInvariant := by
  have hw : State.reset.cfg.wf = true := by decide
  exact inv_iff.mpr ⟨hw, receiverInv_of_idle hw rfl rfl rfl rfl ⟨rfl, rfl⟩,
    transmitterInv_of_idle rfl ⟨rfl, rfl⟩ (Nat.two_pow_pos 8) (Nat.two_pow_pos 8), dispatcherInv_of_cityReset hw rfl rfl⟩

/-- Settles O5. -/
theorem encodeIsRefusedOutsideItsDomain : Obligations.EncodeIsRefusedOutsideItsDomain := by
  intro s cmd p hp
  show execEncode cmd p s = _
  rw [execEncode, encodeFrame_of_gt hp]

theorem execEncode_of_le {cmd : Byte} {p : List Byte} {s : State} (hp : p.length ≤ 128) :
    execEncode cmd p s = .next (s.beginStep.setFn (.image (wire s.cfg cmd p))) := by
  rw [execEncode, encodeFrame_of_le hp, frameImage_eq_wire]

/-- Settles O6. -/
theorem functionRowsAnswerTheirResult : Obligations.FunctionRowsAnswerTheirResult :=
  ⟨fun _ _ => rfl, fun _ _ _ hp => execEncode_of_le hp⟩

/-- Settles O11. -/
theorem stepRunsThePendingEvent : Obligations.StepRunsThePendingEvent := fun _ _ _ _ hw hi => step_of_input hw hi

/-- The last of `CITY_RESET`'s 32 bytes. -/
theorem getLast?_eq_zero_iff {bs : List Byte} (h : bs.length = 32) : bs.getLast? = some 0 ↔ bs.getD 31 1 = 0 := by
  have hlast : bs[31]? = some bs[31] := List.getElem?_eq_getElem (by omega)
  rw [List.getLast?_eq_getElem?, h, List.getD_eq_getElem?_getD, hlast, Option.getD_some, Option.some_inj]

theorem step_illFormed {s : State} (h : s.cfg.wf = false) : step s = .refused .illFormedCfg := by
  rw [step, if_neg (by simp [h])]

theorem transfer_illFormed {d : Bool} {q : Pair} (h : q.near.cfg.wf = false ∨ q.far.cfg.wf = false) :
    q.transfer d = .refused .illFormedCfg := by
  rw [Pair.transfer, if_neg]
  rintro hboth
  obtain ⟨hn, hf⟩ := Bool.and_eq_true_iff.mp hboth
  rcases h with h | h
  · exact Bool.false_ne_true (h.symm.trans hn)
  · exact Bool.false_ne_true (h.symm.trans hf)

/-- Settles O12. -/
theorem illFormedCfgIsRefused : Obligations.IllFormedCfgIsRefused := by
  refine ⟨fun c => ?_, rfl, rfl, rfl, rfl, rfl, rfl, rfl, fun s => step_illFormed, fun d q => transfer_illFormed⟩
  rw [Cfg.wf_iff]
  refine and_congr Iff.rfl (and_congr_right fun _ => and_congr_right fun _ => and_congr_right fun hlen => ?_)
  exact getLast?_eq_zero_iff hlen

/-- Settles O41: the event writes the flag and the output record, whatever they hold. -/
theorem clearForceRefresh : Obligations.ClearForceRefresh := fun _ => ⟨rfl, rfl⟩

end Sys2Proof.Machine
end

section
/-! After an append (R104 to R110): one equation for each of its ends, and the faults of offsets that do not exist. -/

namespace Sys2Proof.Machine

/-- Before the length field is due, or after it was latched. -/
theorem afterAppend_of_not_due {s : State} (h : s.lengthDue = false) : afterAppend s = storeOrComplete s :=
  if_neg (by simp [h])

/-- R104: the length field is read and latched. -/
theorem afterAppend_of_due {s : State} (h : s.lengthDue = true) (hl : (s.rxAcc.read 2).toNat ≤ 128) :
    afterAppend s = storeOrComplete { s with rxExp := s.rxAcc.read 2, rxExpValid := true } := by
  rw [afterAppend, if_pos h]
  exact if_neg (Nat.not_lt.mpr hl)

theorem storeOrComplete_of_incomplete {s : State} (h : s.frameComplete = false) :
    storeOrComplete s = .next (s.setRxEv .stored) := if_neg (by simp [h])

theorem storeOrComplete_of_complete {s : State} (h : s.frameComplete = true) : storeOrComplete s = completeFrame s :=
  if_pos h

theorem lengthDue_of_valid {s : State} (h : s.rxExpValid = true) : s.lengthDue = false := by simp [State.lengthDue, h]

theorem frameComplete_of_not_valid {s : State} (h : s.rxExpValid = false) : s.frameComplete = false := by
  simp [State.frameComplete, h]

theorem frameComplete_eq_false_iff {s : State} (h : s.rxExpValid = true) :
    s.frameComplete = false ↔ s.rxN < 4 + s.rxExp.toNat := by
  rw [← Bool.not_eq_true, frameComplete_iff, h]
  simp

/-- Settles O16: before the length field is due, when it is latched, and after. -/
theorem byteInsideAFrameIsStored : Obligations.ByteInsideAFrameIsStored := by
  intro s b hf
  refine ⟨fun hv hn => ?_, fun hv hlo hhi hl hn => ?_, fun hv hhi hn => ?_⟩
  · have hdue : (appended b s).lengthDue = false := by
      rw [← Bool.not_eq_true, lengthDue_iff]
      rintro ⟨-, h⟩
      exact absurd h (Nat.not_le.mpr (Nat.succ_lt_succ hn))
    calc execRxByte b s
      _ = afterAppend (appended b s) := execRxByte_append hf (by omega)
      _ = storeOrComplete (appended b s) := afterAppend_of_not_due hdue
      _ = .next ((appended b s).setRxEv .stored) := storeOrComplete_of_incomplete (frameComplete_of_not_valid hv)
  · have hread := appended_read_length (b := b) hlo
    have hdue : (appended b s).lengthDue = true := (lengthDue_iff _).mpr ⟨hv, Nat.succ_le_succ hlo⟩
    calc execRxByte b s
      _ = afterAppend (appended b s) := execRxByte_append hf (by omega)
      _ = storeOrComplete (latched b (s.rxAcc.read 2) true s) := by
        rw [afterAppend_of_due hdue (by rwa [hread]), hread]
        rfl
      _ = .next ((latched b (s.rxAcc.read 2) true s).setRxEv .stored) :=
        storeOrComplete_of_incomplete ((frameComplete_eq_false_iff rfl).mpr hn)
  · calc execRxByte b s
      _ = afterAppend (appended b s) := execRxByte_append hf (by omega)
      _ = storeOrComplete (appended b s) := afterAppend_of_not_due (lengthDue_of_valid hv)
      _ = .next ((appended b s).setRxEv .stored) :=
        storeOrComplete_of_incomplete ((frameComplete_eq_false_iff (s := appended b s) hv).mpr hn)

/-! Offsets that do not exist (R41; log entry 9). -/

theorem execRxByte_past_end {b : Byte} {s : State} (hf : s.rxFsm = .accumulating) (hn : 132 ≤ s.rxN) :
    execRxByte b s = .fault .noSuchOffset := by
  have hnone : appendByte b s.beginStep = none := by
    rw [appendByte, memWrite, if_neg]
    exact Nat.not_le.mpr (Nat.lt_succ_of_le hn)
  simp [execRxByte, hf, hnone]

theorem extractFrame_past_end {s : State} (h : 128 < (s.rxAcc.read 2).toNat) : extractFrame s = none := by
  have hread : payloadBlock (headerByte 2 s) s = none := by
    rw [payloadBlock, memRead, if_neg]
    exact Nat.not_le.mpr (Nat.add_lt_add_left h 4)
  rw [extractFrame, hread]

theorem execTxPop_past_end {s : State} (hb : s.txBusy = true) (hi : 132 ≤ s.txIdx) :
    execTxPop s = .fault .noSuchOffset := by
  have hnone : pendingByte s = none := by
    rw [pendingByte, memRead, if_neg]
    exact Nat.not_le.mpr (Nat.lt_succ_of_le hi)
  rw [execTxPop, if_pos hb, hnone]

theorem execTxPop_past_frame {s : State} (hb : s.txBusy = true) (hi : s.txIdx < 132) (hn : s.txN ≤ s.txIdx) :
    execTxPop s = .fault .popBeyondFrame := by
  rw [execTxPop, if_pos hb, pendingByte_of_lt hi]
  simp only
  rw [if_neg (by omega), if_neg (by omega)]

/-- Settles O45. -/
theorem impossibleOffsetsFault : Obligations.ImpossibleOffsetsFault := by
  refine ⟨fun s b => execRxByte_past_end, fun s b hf hn hv hc hl => ?_, fun s => execTxPop_past_end,
    fun s => execTxPop_past_frame⟩
  calc execRxByte b s
    _ = afterAppend (appended b s) := execRxByte_append hf (by omega)
    _ = storeOrComplete (appended b s) := afterAppend_of_not_due (lengthDue_of_valid hv)
    _ = completeFrame (appended b s) := storeOrComplete_of_complete ((frameComplete_iff _).mpr ⟨hv, hc⟩)
    _ = .fault .noSuchOffset := by rw [completeFrame, extractFrame_past_end hl]

end Sys2Proof.Machine
end

section
/-! The decoder of bytes against the decoder of frames (R106 to R111, R118): while a frame is collected, the bytes
received so far and the next one are judged as `decode` judges them. -/

namespace Sys2Proof.Machine

open Sys2Proof.Spec

/-- The bytes of the frame in progress. -/
abbrev State.received (s : State) : List Byte := s.rxAcc.readBytes 0 s.rxN

/-- R15's part on a frame in progress: it begins with `START`, its length field is latched once it is in, and it is not
complete. -/
def State.Collecting (s : State) : Prop :=
  s.rxFsm = .accumulating ∧ (1 ≤ s.rxN ∧ s.rxN < 132) ∧ s.rxAcc.read 0 = s.cfg.start ∧
    (s.rxExpValid = true ↔ 4 ≤ s.rxN) ∧
    (s.rxExpValid = true → s.rxExp = s.rxAcc.read 2 ∧ s.rxExp.toNat ≤ 128 ∧ s.rxN < 4 + s.rxExp.toNat)

theorem collecting_of_inv {s : State} (hs : s.Inv) (hf : s.rxFsm = .accumulating) : s.Collecting := by
  obtain ⟨-, hacc, hvalid, hexp, -⟩ := hs.decoder
  obtain ⟨hlo, hhi, hstart⟩ := hacc hf
  refine ⟨hf, ⟨hlo, Nat.lt_succ_of_le hhi⟩, hstart, by simpa [hf] using hvalid, fun hv => ?_⟩
  obtain ⟨hread, -, hle, -, hn⟩ := hexp hv
  exact ⟨hread, hle, by omega⟩

/-- R101. -/
theorem collecting_startedFrame (s : State) : (startedFrame s.cfg.start s).Collecting :=
  ⟨rfl, ⟨Nat.le_refl 1, by simp [startedFrame]⟩, Memory.read_write_same .., by simp [startedFrame], by simp [startedFrame]⟩

theorem received_startedFrame (b : Byte) (s : State) : (startedFrame b s).received = [b] := by
  simp [State.received, startedFrame, Memory.readBytes_succ]

/-- R103: an append adds the byte to those received. -/
theorem received_appended (b : Byte) (s : State) : (appended b s).received = s.received ++ [b] := by
  have hkeep : (s.rxAcc.write s.rxN b).readBytes 0 s.rxN = s.rxAcc.readBytes 0 s.rxN :=
    Memory.readBytes_congr fun k _ hk => Memory.read_write_other _ b (by omega)
  calc (appended b s).received
    _ = (s.rxAcc.write s.rxN b).readBytes 0 s.rxN ++ (s.rxAcc.write s.rxN b).readBytes (0 + s.rxN) 1 :=
      Memory.readBytes_append _ 0 s.rxN 1
    _ = s.received ++ [b] := by rw [hkeep, Nat.zero_add, Memory.readBytes_succ, Memory.read_write_same]; rfl

/-! `decode` on the bytes of a space. -/

theorem readBytes_header (m : Memory) (k : Nat) :
    m.readBytes 0 (4 + k) = m.read 0 :: m.read 1 :: m.read 2 :: m.read 3 :: m.readBytes 4 k :=
  Memory.readBytes_append m 0 4 k

theorem decode_short {c : Cfg} {m : Memory} {n : Nat} (hstart : m.read 0 = c.start) (hlo : 1 ≤ n) (hhi : n ≤ 3) :
    decode c (m.readBytes 0 n) = .error .truncated := by
  obtain rfl | rfl | rfl : n = 1 ∨ n = 2 ∨ n = 3 := by omega
  all_goals simp [decode, Memory.readBytes_succ, hstart]

theorem decode_badLength {c : Cfg} {m : Memory} {k : Nat} (hstart : m.read 0 = c.start) (hl : 128 < (m.read 2).toNat) :
    decode c (m.readBytes 0 (4 + k)) = .error .badLength := by
  simp [decode, readBytes_header, hstart, hl]

theorem decode_truncated {c : Cfg} {m : Memory} {k : Nat} (hstart : m.read 0 = c.start) (hl : (m.read 2).toNat ≤ 128)
    (hk : k < (m.read 2).toNat) : decode c (m.readBytes 0 (4 + k)) = .error .truncated := by
  simp [decode, readBytes_header, hstart, Nat.not_lt.mpr hl, hk]

theorem decode_complete {c : Cfg} {m : Memory} (hstart : m.read 0 = c.start) (hl : (m.read 2).toNat ≤ 128) :
    decode c (m.readBytes 0 (4 + (m.read 2).toNat)) =
      if verify (m.readBytes 4 (m.read 2).toNat) (m.read 3) then
        .ok (selectRow c (m.read 1) (m.readBytes 4 (m.read 2).toNat), [])
      else .error .badChecksum := by
  have hlen : (m.readBytes 4 (m.read 2).toNat).length = (m.read 2).toNat := Memory.length_readBytes ..
  have htake : (m.readBytes 4 (m.read 2).toNat).take (m.read 2).toNat = m.readBytes 4 (m.read 2).toNat :=
    List.take_of_length_le hlen.le
  have hdrop : (m.readBytes 4 (m.read 2).toNat).drop (m.read 2).toNat = [] := List.drop_of_length_le hlen.le
  simp [decode, readBytes_header, hstart, Nat.not_lt.mpr hl, htake, hdrop]

/-! The step of the next byte. -/

/-- The state R109 leaves to the dispatcher. -/
def accepted (f : Frame) (b : Byte) (s : State) : State :=
  { s with
    rxAcc := s.rxAcc.write s.rxN b
    rxExp := f.length
    rxFsm := .idle
    rxN := 0
    rxExpValid := false
    rxStall := 0
    cnt := { s.cnt with rxAccept := s.cnt.rxAccept + 1 }
    out := { Out.silent with rxEv := some (.accepted f) } }

/-- What the step of a byte does when `decode` gives this of the bytes received and that byte. -/
def JudgedAs (b : Byte) (s : State) : Except DecodeReject (Instr × List Byte) → Prop
  | .ok (i, tail) =>
    tail = [] ∧
      ∃ f : Frame, selectRow s.cfg f.command f.payload = i ∧
        s.received ++ [b] = [s.cfg.start, f.command, f.length, f.checksum] ++ f.payload ∧
        execRxByte b s = exec i (accepted f b s)
  | .error .badChecksum => ∃ exp, execRxByte b s = .next (discardFrame .badChecksum (latched b exp true s))
  | .error .badLength => ∃ exp, execRxByte b s = .next (discardFrame .badLength (latched b exp s.rxExpValid s))
  | .error .truncated =>
    ∃ exp valid, execRxByte b s = .next ((latched b exp valid s).setRxEv .stored) ∧
      ((latched b exp valid s).setRxEv .stored).Collecting
  | .error .badStart => False

/-- R109: the acceptance of a frame after its last byte. -/
theorem acceptFrame_latched (f : Frame) (b : Byte) (s : State) :
    acceptFrame f (latched b f.length true s) = exec (selectRow s.cfg f.command f.payload) (accepted f b s) :=
  dispatch_eq_exec f (accepted f b s)

/-- R107 to R110: the frame's last byte. -/
theorem judgedAs_of_complete {b : Byte} {s : State} (hstart : (appended b s).rxAcc.read 0 = s.cfg.start)
    (hl : ((appended b s).rxAcc.read 2).toNat ≤ 128)
    (hrecv : s.received ++ [b] = (appended b s).rxAcc.readBytes 0 (4 + ((appended b s).rxAcc.read 2).toNat))
    (hexec : execRxByte b s = completeFrame (latched b ((appended b s).rxAcc.read 2) true s)) :
    JudgedAs b s
      (decode s.cfg ((appended b s).rxAcc.readBytes 0 (4 + ((appended b s).rxAcc.read 2).toNat))) := by
  rw [decode_complete hstart hl]
  have hcomplete := hexec.trans (completeFrame_of_le (s := latched b ((appended b s).rxAcc.read 2) true s) hl)
  split
  · next hv =>
    refine ⟨rfl, _, rfl, ?_, (hcomplete.trans (if_pos hv)).trans (acceptFrame_latched _ b s)⟩
    rw [hrecv, readBytes_header, hstart]
    rfl
  · next hv => exact ⟨_, hcomplete.trans (if_neg hv)⟩

section judged

variable {s : State} (h : s.Collecting) (b : Byte)

include h

/-- R104, R105: from the fourth byte on the length field is in; it is judged when it comes and latched from then on. -/
theorem execRxByte_of_header (hn : 3 ≤ s.rxN) :
    execRxByte b s =
      if 128 < ((appended b s).rxAcc.read 2).toNat then .next (discardFrame .badLength (appended b s))
      else storeOrComplete (latched b ((appended b s).rxAcc.read 2) true s) := by
  obtain ⟨hf, ⟨-, hhi⟩, -, -, hexp⟩ := h
  rw [execRxByte_append hf hhi]
  cases hv : s.rxExpValid with
  | false =>
    have hdue : (appended b s).lengthDue = true := (lengthDue_iff _).mpr ⟨hv, Nat.succ_le_succ hn⟩
    split
    · next hl => exact afterAppend_of_oversized hdue hl
    · next hl => exact afterAppend_of_due hdue (Nat.not_lt.mp hl)
  | true =>
    obtain ⟨hread, hle, -⟩ := hexp hv
    have hsame : latched b ((appended b s).rxAcc.read 2) true s = appended b s := by
      rw [appended_read_length hn, ← hread, ← hv]
      rfl
    rw [if_neg (by rwa [appended_read_length hn, ← hread, Nat.not_lt]), hsame,
      afterAppend_of_not_due (lengthDue_of_valid (s := appended b s) hv)]

/-- R112: a byte of the header before its last. -/
theorem judged_of_short (hn : s.rxN < 3) : JudgedAs b s (decode s.cfg (s.received ++ [b])) := by
  obtain ⟨hf, ⟨hlo, -⟩, hstart, hvalid, -⟩ := h
  have hv : s.rxExpValid = false := by simpa [Nat.not_le.mpr (show s.rxN < 4 by omega)] using hvalid
  have hstart' : (appended b s).rxAcc.read 0 = s.cfg.start := (Memory.read_write_other _ b (by omega)).trans hstart
  have hd : decode s.cfg (appended b s).received = .error .truncated := decode_short hstart' (Nat.le_add_left 1 s.rxN) hn
  rw [← received_appended, hd]
  refine ⟨s.rxExp, s.rxExpValid, (byteInsideAFrameIsStored s b hf).1 hv hn, hf, ⟨Nat.le_add_left 1 s.rxN, ?_⟩,
    hstart', ?_, ?_⟩
  · show s.rxN + 1 < 132
    omega
  · show s.rxExpValid = true ↔ 4 ≤ s.rxN + 1
    simp [hv]
    omega
  · intro hv'
    exact absurd (hv.symm.trans hv') Bool.false_ne_true

/-- R104 to R110: the fourth byte or a later one. -/
theorem judged_of_header (hn : 3 ≤ s.rxN) : JudgedAs b s (decode s.cfg (s.received ++ [b])) := by
  have hexec := execRxByte_of_header h b hn
  obtain ⟨hf, ⟨hlo, hhi⟩, hstart, hvalid, hexp⟩ := h
  have hstart' : (appended b s).rxAcc.read 0 = s.cfg.start := (Memory.read_write_other _ b (by omega)).trans hstart
  obtain ⟨k, hk⟩ : ∃ k, s.rxN = 3 + k := Nat.exists_eq_add_of_le hn
  have hrecv : s.received ++ [b] = (appended b s).rxAcc.readBytes 0 (4 + k) := by
    rw [← received_appended, State.received, show (appended b s).rxN = 4 + k from (congrArg Nat.succ hk).trans (by omega)]
  have hread := appended_read_length (b := b) hn
  rw [hrecv]
  rcases Nat.lt_or_ge 128 ((appended b s).rxAcc.read 2).toNat with hl | hl
  · rw [if_pos hl] at hexec
    rw [decode_badLength hstart' hl]
    exact ⟨s.rxExp, hexec⟩
  rw [if_neg (Nat.not_lt.mpr hl)] at hexec
  rcases Nat.lt_or_ge k ((appended b s).rxAcc.read 2).toNat with hkl | hkl
  · rw [storeOrComplete_of_incomplete ((frameComplete_eq_false_iff rfl).mpr
      (show s.rxN + 1 < 4 + ((appended b s).rxAcc.read 2).toNat by omega))] at hexec
    rw [decode_truncated hstart' hl hkl]
    refine ⟨_, true, hexec, hf, ⟨Nat.le_add_left 1 s.rxN, ?_⟩, hstart', ?_, fun _ => ⟨rfl, hl, ?_⟩⟩
    · show s.rxN + 1 < 132
      omega
    · exact iff_of_true rfl (Nat.succ_le_succ hn)
    · show s.rxN + 1 < 4 + ((appended b s).rxAcc.read 2).toNat
      omega
  · obtain rfl : k = ((appended b s).rxAcc.read 2).toNat := by
      cases hv : s.rxExpValid with
      | false =>
        have : ¬ 4 ≤ s.rxN := by simp [← hvalid, hv]
        omega
      | true =>
        obtain ⟨hexp2, -, hlt⟩ := hexp hv
        rw [hread, ← hexp2]
        rw [hread, ← hexp2] at hkl
        omega
    rw [storeOrComplete_of_complete
      ((frameComplete_iff _).mpr ⟨rfl, show 4 + ((appended b s).rxAcc.read 2).toNat ≤ s.rxN + 1 by omega⟩)] at hexec
    exact judgedAs_of_complete hstart' hl hrecv hexec

theorem judged : JudgedAs b s (decode s.cfg (s.received ++ [b])) := by
  rcases Nat.lt_or_ge s.rxN 3 with hn | hn
  · exact judged_of_short h b hn
  · exact judged_of_header h b hn

end judged

/-- Settles O18: the byte is judged as `decode` judges the bytes received and that byte. -/
theorem decoderRefinesTheFrameFormat : Obligations.DecoderRefinesTheFrameFormat := by
  intro s b hs hf
  have hj := judged (collecting_of_inv hs hf) b
  refine ⟨fun i tail hd => ?_, fun hd => ?_, fun hd => ?_, fun hd => ?_, fun hd => ?_⟩
  all_goals rw [hd] at hj
  · exact hj
  · exact hj
  · exact hj
  · obtain ⟨exp, valid, hexec, -⟩ := hj
    exact ⟨exp, valid, hexec⟩
  · exact hj

end Sys2Proof.Machine
end

section
/-! A whole frame at the decoder (R118): its image byte by byte from `Idle`, and its last byte alone after a placement
(log entry 14). -/

namespace Sys2Proof.Machine

open Sys2Proof.Spec

/-- R24: the record of a frame. -/
def frameOf (cmd : Byte) (p : List Byte) : Frame := ⟨cmd, lengthByte p, xor8 p, p⟩

theorem eq_frameOf {c : Cfg} {cmd : Byte} {p : List Byte} {f : Frame}
    (h : [c.start, f.command, f.length, f.checksum] ++ f.payload = frameImage c cmd p) : f = frameOf cmd p := by
  obtain ⟨command, length, checksum, payload⟩ := f
  simpa [frameImage, frameOf] using h

/-- A frame's image is in progress, and these bytes of it are still to come. -/
def State.Awaits (cmd : Byte) (p bs : List Byte) (s : State) : Prop :=
  s.Collecting ∧ s.received ++ bs = frameImage s.cfg cmd p

/-- The step leaves everything but the decoder's registers and the outputs. -/
def OnlyReceives (s t : State) : Prop :=
  SameInputs s t ∧ t.cnt = s.cnt ∧ t.txBusy = s.txBusy

/-- R101: the first byte of an image. -/
theorem execRxByte_of_start {s : State} (hf : s.rxFsm = .idle) (cmd : Byte) (p : List Byte) :
    ∃ t, execRxByte s.cfg.start s = .next t ∧ t.out.rxEv = some .started ∧
      t.Awaits cmd p (cmd :: lengthByte p :: xor8 p :: p) ∧ OnlyReceives s t := by
  refine ⟨_, execRxByte_start hf rfl, rfl, ⟨collecting_startedFrame s, ?_⟩, ⟨rfl, rfl, rfl⟩, rfl, rfl⟩
  rw [received_startedFrame]
  rfl

section awaits

variable {s : State} {cmd b : Byte} {p : List Byte} (hp : p.length ≤ 128)

include hp

/-- R112: a byte of an image that is not its last. -/
theorem execRxByte_of_awaits {b' : Byte} {bs : List Byte} (h : s.Awaits cmd p (b :: b' :: bs)) :
    ∃ t, execRxByte b s = .next t ∧ t.out.rxEv = some .stored ∧ t.Awaits cmd p (b' :: bs) ∧ OnlyReceives s t := by
  obtain ⟨hcoll, himg⟩ := h
  have himg' : s.received ++ [b] ++ b' :: bs = frameImage s.cfg cmd p := by simpa using himg
  have hj := judged hcoll b
  rw [decode_of_prefix_frameImage hp himg'.symm] at hj
  obtain ⟨exp, valid, hexec, hnext⟩ := hj
  rw [← received_appended] at himg'
  exact ⟨_, hexec, rfl, ⟨hnext, himg'⟩, ⟨rfl, rfl, rfl⟩, rfl, rfl⟩

/-- R109: the last byte of an image. -/
theorem execRxByte_of_awaits_last (h : s.Awaits cmd p [b]) :
    execRxByte b s = exec (selectRow s.cfg cmd p) (accepted (frameOf cmd p) b s) := by
  obtain ⟨hcoll, himg⟩ := h
  have hj := judged hcoll b
  rw [himg, decode_frameImage s.cfg cmd hp] at hj
  obtain ⟨-, f, -, hbytes, hexec⟩ := hj
  obtain rfl := eq_frameOf (hbytes.symm.trans himg)
  exact hexec

end awaits

/-- What one acceptance leaves behind: the decoder in `Idle`, one frame counted and none discarded. -/
def AcceptedOnce (s t : State) : Prop :=
  t.rxFsm = .idle ∧ t.rxN = 0 ∧ t.inputs = s.inputs ∧ t.cnt.rxAccept = s.cnt.rxAccept + 1 ∧
    t.cnt.rxStray = s.cnt.rxStray ∧ t.cnt.rxBadLen = s.cnt.rxBadLen ∧ t.cnt.rxBadCks = s.cnt.rxBadCks ∧
    t.cnt.rxTimeout = s.cnt.rxTimeout

/-- R109: an accepted frame is dispatched in its step. -/
theorem exec_accepted (f : Frame) (b : Byte) (s : State) :
    ∃ t, exec (selectRow s.cfg f.command f.payload) (accepted f b s) = .next t ∧ t.out.rxEv = some (.accepted f) ∧
      AcceptedOnce s t := by
  obtain ⟨t, ht⟩ := dispatch_total f (accepted f b s)
  obtain ⟨⟨-, -, hi⟩, ⟨hf, hn, -⟩, hcnt, -, ⟨hev, -⟩, -⟩ := dispatch_keeps ht
  exact ⟨t, (dispatch_eq_exec f (accepted f b s)).symm.trans ht, hev, hf, hn, hi, hcnt⟩

/-- R118 from a frame in progress, by induction on the bytes that are left of its image. -/
theorem trace_of_awaits {s : State} {cmd b : Byte} {p bs : List Byte} {env : Env} {rest : List Input}
    (hw : s.cfg.wf = true) (hp : p.length ≤ 128) (h : s.Awaits cmd p (b :: bs))
    (hi : s.inputs = byteInputs (b :: bs) env ++ rest) :
    ∃ os t, trace (bs.length + 1) s = .next (os, t) ∧
      os.map Out.rxEv = List.replicate bs.length (some .stored) ++ [some (.accepted (frameOf cmd p))] ∧
      AcceptedOnce { s with inputs := rest } t := by
  induction bs generalizing s b with
  | nil =>
    have hd : (s.deliver ⟨.rxByte b, env⟩ rest).Awaits cmd p [b] := h
    obtain ⟨t, ht, hev, honce⟩ := exec_accepted (frameOf cmd p) b (s.deliver ⟨.rxByte b, env⟩ rest)
    have hstep : step s = .next t := (step_of_input hw hi).trans ((execRxByte_of_awaits_last hp hd).trans ht)
    exact ⟨_, t, trace_of_next hstep rfl, by simp [hev], honce⟩
  | cons b' bs ih =>
    have hd : (s.deliver ⟨.rxByte b, env⟩ (byteInputs (b' :: bs) env ++ rest)).Awaits cmd p (b :: b' :: bs) := h
    obtain ⟨u, hexec, hev, hu, ⟨hcfg, -, hin⟩, hcnt, -⟩ := execRxByte_of_awaits hp hd
    obtain ⟨os, t, htrace, hevs, honce⟩ := ih (by rwa [hcfg]) hu hin
    refine ⟨_, t, trace_of_next ((step_of_input hw hi).trans hexec) htrace, ?_, ?_⟩
    · simp [hev, hevs, List.replicate_succ]
    · simpa [AcceptedOnce, hcnt] using honce

/-- Settles O21: `START` begins the frame, and the other bytes of the image complete it. -/
theorem roundTripThroughTheDecoder : Obligations.RoundTripThroughTheDecoder := by
  intro s cmd p env rest hw hf hp hi
  obtain ⟨u, hexec, hev, hu, ⟨hcfg, -, hin⟩, hcnt, -⟩ := execRxByte_of_start
    (s := s.deliver ⟨.rxByte s.cfg.start, env⟩ (byteInputs (cmd :: lengthByte p :: xor8 p :: p) env ++ rest)) hf cmd p
  have hw' : u.cfg.wf = true := by rwa [hcfg]
  obtain ⟨os, t, htrace, hevs, hidle, hn, hrest, hcounts⟩ := trace_of_awaits hw' hp hu hin
  rw [hcnt] at hcounts
  refine ⟨u.out :: os, t, ?_, ?_, hidle, hn, hrest, hcounts⟩
  · rw [Nat.add_comm]
    exact trace_of_next ((step_of_input hw hi).trans hexec) htrace
  · rw [List.map_cons, hev, hevs, Nat.add_comm 2]
    rfl

end Sys2Proof.Machine
end

section
/-! A frame placed up to its last byte (log entry 14) is a frame in progress, and that byte completes it. -/

namespace Sys2Proof.Machine

/-- The state in which all bytes of an image but its last have been received. -/
def placed (len : Byte) (init : List Byte) (s : State) : State :=
  { s with
    rxFsm := .accumulating
    rxN := init.length
    rxExpValid := decide (4 ≤ init.length)
    rxExp := len
    rxAcc := s.rxAcc.writeBytes 0 init
    rxStall := 0 }

section placed

variable {c : Cfg} {cmd b : Byte} {p init : List Byte} (hp : p.length ≤ 128)
  (himg : frameImage c cmd p = init ++ [b])

include himg

theorem length_init : init.length = 3 + p.length := by
  have h := congrArg List.length himg
  rw [length_frameImage, List.length_append, List.length_singleton] at h
  omega

theorem getD_init {k : Nat} (hk : k < 3) : init.getD k 0 = (frameImage c cmd p).getD k 0 := by
  rw [himg, List.getD_append]
  rw [length_init himg]
  omega

include hp

theorem awaits_placed {s : State} (hc : s.cfg = c) : (placed (lengthByte p) init s).Awaits cmd p [b] := by
  have hlen := length_init himg
  have hread : ∀ k, k < 3 → (s.rxAcc.writeBytes 0 init).read k = (frameImage c cmd p).getD k 0 := fun k hk => by
    rw [Memory.read_writeBytes, if_pos (by omega), Nat.sub_zero, getD_init himg hk]
  refine ⟨⟨rfl, ⟨?_, ?_⟩, ?_, decide_eq_true_iff, fun _ => ⟨(hread 2 (by omega)).symm, ?_, ?_⟩⟩, ?_⟩
  · show 1 ≤ init.length
    omega
  · show init.length < 132
    omega
  · exact (hread 0 (by omega)).trans (congrArg Cfg.start hc.symm)
  · exact (zextLength_lengthByte hp).trans_le hp
  · show init.length < 4 + zextLength (lengthByte p)
    rw [zextLength_lengthByte hp]
    omega
  · show (s.rxAcc.writeBytes 0 init).readBytes 0 init.length ++ [b] = frameImage s.cfg cmd p
    rw [Memory.readBytes_writeBytes_same, hc, himg]

/-- The placing leaves exactly the image's last byte pending. -/
theorem presentFrame_image {s : State} (hc : s.cfg = c) (tail : List Byte) :
    presentFrame (frameImage c cmd p ++ tail) s = (placed (lengthByte p) init s).presentEvent (.rxByte b) := by
  have hspan : frameSpan (frameImage c cmd p ++ tail) = init.length + 1 := by
    have hl : zextLength (lengthByte p) = p.length := zextLength_lengthByte hp
    have hget : (frameImage c cmd p ++ tail).getD 2 0 = lengthByte p := rfl
    rw [frameSpan, hget, hl, if_pos hp, length_init himg, Config.headerSize]
    omega
  have hlast : (frameImage c cmd p ++ tail).getD init.length 0 = b := by simp [himg]
  have hinit : (frameImage c cmd p ++ tail).take init.length = init := by simp [himg]
  rw [presentFrame, if_pos (by rw [hc]; rfl), hspan, Nat.add_sub_cancel, hlast, hinit]
  rfl

end placed

/-- Settles O13: the table word's bytes begin with an image, whose last byte is the next event. -/
theorem placedWordRunsItsInstruction : Obligations.PlacedWordRunsItsInstruction := by
  intro s nbits w i hc hi
  obtain ⟨tail, hd⟩ : ∃ tail, decode Cfg.default (tableBytes nbits w) = .ok (i, tail) := by
    unfold decodeTableWord at hi
    split at hi
    · next r hr =>
      obtain rfl := Option.some.inj hi
      exact ⟨r.2, hr⟩
    · cases hi
  obtain ⟨cmd, p, hp, rfl, hbytes⟩ := decode_eq_ok hd
  obtain ⟨init, b, himg⟩ : ∃ init b, frameImage Cfg.default cmd p = init ++ [b] :=
    ⟨_, _, (List.dropLast_append_getLast (List.cons_ne_nil _ _)).symm⟩
  have hwait := awaits_placed hp himg hc
  have hw : s.cfg.wf = true := by rw [hc]; decide
  have hrun : step (s.withFetchWord nbits w) =
      exec (selectRow s.cfg cmd p) (accepted (frameOf cmd p) b (placed (lengthByte p) init s)) := by
    rw [State.withFetchWord, hbytes, presentFrame_image hp himg hc]
    exact (step_presentEvent (s := placed (lengthByte p) init s) hw).trans (execRxByte_of_awaits_last hp hwait)
  rw [hc] at hrun
  exact ⟨frameOf cmd p, _, _, congrArg (selectRow · cmd p) hc, hrun⟩

end Sys2Proof.Machine
end

section
/-! A pending frame at the serializer (R142): each pop hands over the next byte of it, and the last pop ends it. -/

namespace Sys2Proof.Machine

open Sys2Proof.Spec

/-- A frame is pending, and these bytes of it are still to be handed over. -/
def State.Sends (bs : List Byte) (s : State) : Prop :=
  s.txBusy = true ∧ s.txIdx + bs.length = s.txN ∧ s.txN ≤ 132 ∧ s.txBuf.readBytes s.txIdx bs.length = bs

/-- A pending frame from its first byte (R18). -/
theorem sends_of_image {s : State} {cmd : Byte} {p : List Byte} (hp : p.length ≤ 128) (hb : s.txBusy = true)
    (hi : s.txIdx = 0) (hn : s.txN = 4 + p.length) (himg : s.txBuf.readBytes 0 (4 + p.length) = wire s.cfg cmd p) :
    s.Sends (wire s.cfg cmd p) := by
  refine ⟨hb, ?_, by omega, ?_⟩
  · rw [hi, hn, length_wire, Nat.zero_add]
  · rw [hi, length_wire, himg]

/-- R132: the image written is the frame pending. -/
theorem sends_of_written {s : State} {cmd : Byte} {p : List Byte} {m : Memory} (hp : p.length ≤ 128) (hb : s.txBusy = true)
    (hi : s.txIdx = 0) (hn : s.txN = 4 + p.length) (hm : s.txBuf = m.writeBytes 0 (wire s.cfg cmd p)) :
    s.Sends (wire s.cfg cmd p) :=
  sends_of_image hp hb hi hn (by rw [hm, ← length_wire s.cfg cmd p, Memory.readBytes_writeBytes_same])

/-- The step leaves the inputs and the decoder. -/
def OnlySends (s t : State) : Prop := SameInputs s t ∧ SameReceiver s t

theorem sameReceiver_trans {s t u : State} (h : SameReceiver s t) (h' : SameReceiver t u) : SameReceiver s u := by
  obtain ⟨hf, hn, hv, he, ht, ha⟩ := h
  obtain ⟨hf', hn', hv', he', ht', ha'⟩ := h'
  exact ⟨hf'.trans hf, hn'.trans hn, hv'.trans hv, he'.trans he, ht'.trans ht, fun a => (ha' a).trans (ha a)⟩

theorem onlySends_trans {s t u : State} (h : OnlySends s t) (h' : OnlySends t u) : OnlySends s u := by
  obtain ⟨⟨hc, he, hi⟩, hrx⟩ := h
  obtain ⟨⟨hc', he', hi'⟩, hrx'⟩ := h'
  exact ⟨⟨hc'.trans hc, he'.trans he, hi'.trans hi⟩, sameReceiver_trans hrx hrx'⟩

/-- The frame has been handed over whole, once. -/
def SentOnce (s t : State) : Prop := t.txBusy = false ∧ t.cnt.txFrames = s.cnt.txFrames + 1 ∧ OnlySends s t

/-- R132: a taken request leaves its image pending. -/
theorem execTxReq_of_idle {s : State} {cmd : Byte} {p : List Byte} (hp : p.length ≤ 128) (hb : s.txBusy = false) :
    ∃ t, execTxReq cmd p s = .next t ∧ t.out.txEv = some .taken ∧ t.Sends (wire s.cfg cmd p) ∧ SameInputs s t ∧
      t.cnt = s.cnt :=
  ⟨_, (requestIsTaken s cmd p hp hb).1, rfl, sends_of_written hp rfl rfl rfl rfl, ⟨rfl, rfl, rfl⟩, rfl⟩

/-- R135. -/
theorem execTxPop_of_sends {s : State} {b b' : Byte} {bs : List Byte} (h : s.Sends (b :: b' :: bs)) :
    ∃ t, execTxPop s = .next t ∧ t.out.txEv = some (.byte b false) ∧ t.Sends (b' :: bs) ∧
      t.cnt.txFrames = s.cnt.txFrames ∧ OnlySends s t := by
  obtain ⟨hb, hlen, hmax, hbytes⟩ := h
  rw [List.length_cons, List.length_cons] at hlen
  obtain ⟨hread, hrest⟩ := List.cons.inj hbytes
  refine ⟨_, execTxPop_nextByte hb (by omega) (by omega), congrArg (fun x => some (TxEv.byte x false)) hread,
    ⟨hb, ?_, hmax, hrest⟩, rfl, ⟨rfl, rfl, rfl⟩, sameReceiver_refl s⟩
  show s.txIdx + 1 + (bs.length + 1) = s.txN
  omega

/-- R136. -/
theorem execTxPop_of_sends_last {s : State} {b : Byte} (h : s.Sends [b]) :
    ∃ t, execTxPop s = .next t ∧ t.out.txEv = some (.byte b true) ∧ SentOnce s t := by
  obtain ⟨hb, hlen, hmax, hbytes⟩ := h
  rw [List.length_singleton] at hlen
  obtain ⟨hread, -⟩ := List.cons.inj hbytes
  exact ⟨_, execTxPop_lastByte hb hlen (by omega), congrArg (fun x => some (TxEv.byte x true)) hread, rfl, rfl,
    ⟨rfl, rfl, rfl⟩, sameReceiver_refl s⟩

/-- The reports of the pops that hand these bytes over. -/
def popReports (bs : List Byte) : List (Option TxEv) :=
  (List.range bs.length).map fun k => some (.byte (bs.getD k 0) (decide (k + 1 = bs.length)))

theorem popReports_singleton (b : Byte) : popReports [b] = [some (.byte b true)] := rfl

theorem popReports_cons_cons (b b' : Byte) (bs : List Byte) :
    popReports (b :: b' :: bs) = some (.byte b false) :: popReports (b' :: bs) := by
  have hrange : List.range (b :: b' :: bs).length = 0 :: (List.range (b' :: bs).length).map Nat.succ :=
    List.range_succ_eq_map
  rw [popReports, hrange, List.map_cons, List.map_map, popReports]
  refine congrArg₂ List.cons (by simp) (List.map_congr_left fun k _ => ?_)
  simp

theorem popReports_wire (c : Cfg) (cmd : Byte) (p : List Byte) :
    popReports (wire c cmd p) =
      (List.range (4 + p.length)).map fun k => some (.byte ((wire c cmd p).getD k 0) (decide (k = 3 + p.length))) := by
  rw [popReports, length_wire]
  refine List.map_congr_left fun k _ => ?_
  have hlast : k + 1 = 4 + p.length ↔ k = 3 + p.length := by omega
  simp only [hlast]

/-- R142 from a pending frame, by induction on the bytes that are left of it. -/
theorem trace_of_sends {s : State} {b : Byte} {bs : List Byte} {env : Env} {rest : List Input} (hw : s.cfg.wf = true)
    (h : s.Sends (b :: bs)) (hi : s.inputs = List.replicate (bs.length + 1) ⟨.txPop, env⟩ ++ rest) :
    ∃ os t, trace (bs.length + 1) s = .next (os, t) ∧ os.map Out.txEv = popReports (b :: bs) ∧ txStream os = b :: bs ∧
      t.txBusy = false ∧ t.cnt.txFrames = s.cnt.txFrames + 1 ∧ t.inputs = rest := by
  induction bs generalizing s b with
  | nil =>
    have hd : (s.deliver ⟨.txPop, env⟩ rest).Sends [b] := h
    obtain ⟨t, hexec, hev, hidle, hcnt, ⟨-, -, hin⟩, -⟩ := execTxPop_of_sends_last hd
    exact ⟨_, t, trace_of_next ((step_of_input hw hi).trans hexec) rfl, by simp [hev, popReports_singleton],
      by simp [txStream, Out.wireByte, hev], hidle, hcnt, hin⟩
  | cons b' bs ih =>
    have hd : (s.deliver ⟨.txPop, env⟩ (List.replicate (bs.length + 1) ⟨.txPop, env⟩ ++ rest)).Sends (b :: b' :: bs) := h
    obtain ⟨u, hexec, hev, hu, hcnt, ⟨hcfg, -, hin⟩, -⟩ := execTxPop_of_sends hd
    obtain ⟨os, t, htrace, hevs, hstream, hidle, hcnt', hrest⟩ := ih (by rwa [hcfg]) hu hin
    refine ⟨_, t, trace_of_next ((step_of_input hw hi).trans hexec) htrace, ?_, ?_, hidle,
      hcnt'.trans (by rw [hcnt]; rfl), hrest⟩
    · simp [hev, hevs, popReports_cons_cons]
    · simpa [txStream, Out.wireByte, hev] using hstream

/-- Settles O27: the request loads the image, and the pops hand it over. -/
theorem serializerSendsExactlyTheImage : Obligations.SerializerSendsExactlyTheImage := by
  intro s cmd p env rest hw hb hp hi
  obtain ⟨u, hexec, hev, hu, ⟨hcfg, -, hin⟩, hcnt⟩ := execTxReq_of_idle
    (s := s.deliver ⟨.txReq cmd p, env⟩ (List.replicate (4 + p.length) ⟨.txPop, env⟩ ++ rest)) (cmd := cmd) hp hb
  rw [Nat.add_comm 4] at hin
  obtain ⟨os, t, htrace, hevs, hstream, hidle, hframes, hrest⟩ := trace_of_sends (by rwa [hcfg]) hu hin
  refine ⟨u.out :: os, t, ?_, ?_, ?_, hidle, by rw [hframes, hcnt]; rfl, hrest⟩
  · rw [Nat.add_comm]
    exact trace_of_next ((step_of_input hw hi).trans hexec) htrace
  · rw [List.map_cons, hev, hevs]
    exact congrArg _ (popReports_wire s.cfg cmd p)
  · have hnone : u.out.wireByte = none := by rw [Out.wireByte, hev]
    exact (List.filterMap_cons_none hnone).trans hstream

end Sys2Proof.Machine
end

section
/-! The link (R205): the pops of one end are the bytes of the other, in either direction, so a pending frame is accepted
whole and a status request comes back answered. -/

namespace Sys2Proof.Machine

open Sys2Proof.Spec

/-- The two ends of a link, each with a well-formed `cfg` (R5, R224). -/
def Pair.Linked (q : Pair) : Prop := q.near.cfg.wf = true ∧ q.far.cfg.wf = true ∧ q.joined = true

section linked

variable {d : Bool} {q q' : Pair}

theorem linked_of_sameCfg (hs : (q'.sender d).cfg = (q.sender d).cfg) (hr : (q'.receiver d).cfg = (q.receiver d).cfg)
    (h : q.Linked) : q'.Linked := by
  have hcfg : q'.near.cfg = q.near.cfg ∧ q'.far.cfg = q.far.cfg := by
    cases d with
    | true => exact ⟨hs, hr⟩
    | false => exact ⟨hr, hs⟩
  obtain ⟨hn, hf⟩ := hcfg
  simpa [Pair.Linked, joined_iff, hn, hf] using h

theorem sender_wf (h : q.Linked) : (q.sender d).cfg.wf = true := by
  obtain ⟨hn, hf, -⟩ := h
  cases d with
  | true => exact hn
  | false => exact hf

theorem receiver_wf (h : q.Linked) : (q.receiver d).cfg.wf = true := by
  obtain ⟨hn, hf, -⟩ := h
  cases d with
  | true => exact hf
  | false => exact hn

/-- R224, said of the two directions. -/
theorem linked_agree (h : q.Linked) :
    (q.receiver d).cfg.start = (q.sender d).cfg.start ∧ (q.receiver d).cfg.ids = (q.sender d).cfg.ids := by
  obtain ⟨-, -, hj⟩ := h
  obtain ⟨-, hstart, hids⟩ := (joined_iff q).mp hj
  cases d with
  | true => exact ⟨hstart.symm, hids.symm⟩
  | false => exact ⟨hstart, hids⟩

theorem sender_not (d : Bool) (q : Pair) : q.sender (!d) = q.receiver d := by cases d <;> rfl

theorem receiver_not (d : Bool) (q : Pair) : q.receiver (!d) = q.sender d := by cases d <;> rfl

/-- One byte over the link, from the two steps it is made of. -/
theorem transfer_of_steps {s t : State} {b : Byte} {last : Bool} (h : q.Linked)
    (hs : execTxPop (q.sender d) = .next s) (hb : s.out.txEv = some (.byte b last))
    (ht : execRxByte b (q.receiver d) = .next t) :
    ∃ q', q.transfer d = .next q' ∧ q'.sender d = s ∧ q'.receiver d = t := by
  obtain ⟨hn, hf, hj⟩ := h
  obtain ⟨q', hq, hsend, hrecv, -⟩ := transfer_of_cross hn hf hj
    (crossByte_of_next (sender_wf ⟨hn, hf, hj⟩) (receiver_wf ⟨hn, hf, hj⟩) hs hb ht)
  exact ⟨q', hq, hsend, hrecv⟩

end linked

/-- What the crossing of a whole frame leaves: the sender has sent it once, and the receiver is where the frame's row
ends from a state that differs from the one before in the decoder only. -/
def Crossed (cmd : Byte) (p : List Byte) (d : Bool) (q q' : Pair) : Prop :=
  SentOnce (q.sender d) (q'.sender d) ∧
    ∃ r b, OnlyReceives (q.receiver d) r ∧
      exec (selectRow r.cfg cmd p) (accepted (frameOf cmd p) b r) = .next (q'.receiver d)

theorem onlyReceives_trans {s t u : State} (h : OnlyReceives s t) (h' : OnlyReceives t u) : OnlyReceives s u := by
  obtain ⟨⟨hc, he, hi⟩, hcnt, hb⟩ := h
  obtain ⟨⟨hc', he', hi'⟩, hcnt', hb'⟩ := h'
  exact ⟨⟨hc'.trans hc, he'.trans he, hi'.trans hi⟩, hcnt'.trans hcnt, hb'.trans hb⟩

/-- A byte of the frame that is not its last crosses before the others. -/
theorem crossed_trans {cmd : Byte} {p : List Byte} {d : Bool} {q u q' : Pair}
    (hcnt : (u.sender d).cnt.txFrames = (q.sender d).cnt.txFrames) (hs : OnlySends (q.sender d) (u.sender d))
    (hr : OnlyReceives (q.receiver d) (u.receiver d)) (h : Crossed cmd p d u q') : Crossed cmd p d q q' := by
  obtain ⟨⟨hidle, hframes, hsent⟩, r, b, hrecv, hexec⟩ := h
  exact ⟨⟨hidle, hframes.trans (by rw [hcnt]), onlySends_trans hs hsent⟩, r, b, onlyReceives_trans hr hrecv, hexec⟩

/-- R205, R142, R118, by induction on the bytes that are still to cross. -/
theorem transfers_of_awaits {cmd b : Byte} {p bs : List Byte} {d : Bool} {q : Pair} (hp : p.length ≤ 128) (h : q.Linked)
    (hs : (q.sender d).Sends (b :: bs)) (hr : (q.receiver d).Awaits cmd p (b :: bs)) :
    ∃ q', Pair.transfers (List.replicate (bs.length + 1) d) q = .next q' ∧ Crossed cmd p d q q' := by
  induction bs generalizing q b with
  | nil =>
    obtain ⟨s, hpop, hev, hsent⟩ := execTxPop_of_sends_last hs
    obtain ⟨t, ht, -⟩ := exec_accepted (frameOf cmd p) b (q.receiver d)
    obtain ⟨q', hq, rfl, rfl⟩ := transfer_of_steps h hpop hev ((execRxByte_of_awaits_last hp hr).trans ht)
    exact ⟨q', transfers_of_next hq, hsent, _, b, ⟨⟨rfl, rfl, rfl⟩, rfl, rfl⟩, ht⟩
  | cons b' bs ih =>
    obtain ⟨s, hpop, hev, hs', hcnt, hsends⟩ := execTxPop_of_sends hs
    obtain ⟨t, hbyte, -, hr', hrecv⟩ := execRxByte_of_awaits hp hr
    obtain ⟨u, hq, rfl, rfl⟩ := transfer_of_steps h hpop hev hbyte
    obtain ⟨q', htr, hcross⟩ := ih (linked_of_sameCfg hsends.1.1 hrecv.1.1 h) hs' hr'
    exact ⟨q', (transfers_of_next hq).trans htr, crossed_trans hcnt hsends hrecv hcross⟩

/-- A whole frame, from its first byte. -/
theorem transfers_of_wire {cmd : Byte} {p : List Byte} {d : Bool} {q : Pair} (hp : p.length ≤ 128) (h : q.Linked)
    (hs : (q.sender d).Sends (wire (q.sender d).cfg cmd p)) (hf : (q.receiver d).rxFsm = .idle) :
    ∃ q', Pair.transfers (List.replicate (4 + p.length) d) q = .next q' ∧ Crossed cmd p d q q' := by
  obtain ⟨s, hpop, hev, hs', hcnt, hsends⟩ := execTxPop_of_sends hs
  obtain ⟨t, hbyte, -, hr', hrecv⟩ := execRxByte_of_start hf cmd p
  rw [(linked_agree h).1] at hbyte
  obtain ⟨u, hq, rfl, rfl⟩ := transfer_of_steps h hpop hev hbyte
  obtain ⟨q', htr, hcross⟩ := transfers_of_awaits hp (linked_of_sameCfg hsends.1.1 hrecv.1.1 h) hs' hr'
  refine ⟨q', ?_, crossed_trans hcnt hsends hrecv hcross⟩
  rw [Nat.add_comm 4]
  exact (transfers_of_next hq).trans htr

/-- What the receiver of a crossed frame reports, whatever the frame. -/
theorem accepted_of_crossed {cmd : Byte} {p : List Byte} {d : Bool} {q q' : Pair} (h : Crossed cmd p d q q') :
    (q'.receiver d).out.rxEv = some (.accepted (frameOf cmd p)) ∧ (q'.receiver d).rxFsm = .idle ∧
      (q'.receiver d).cnt.rxAccept = (q.receiver d).cnt.rxAccept + 1 := by
  obtain ⟨-, r, b, ⟨-, hcnt, -⟩, hexec⟩ := h
  obtain ⟨t, ht, hev, hidle, -, -, haccept, -⟩ := exec_accepted (frameOf cmd p) b r
  obtain rfl := Host.Outcome.next.inj (ht.symm.trans hexec)
  exact ⟨hev, hidle, by rw [haccept, hcnt]⟩

/-! The exchange of 95 P6. -/

theorem cmdSystemStatus_of_ids {c c' : Cfg} (h : c.ids = c'.ids) : c.cmdSystemStatus = c'.cmdSystemStatus := by
  simp only [Cfg.ids, List.cons.injEq] at h
  obtain ⟨-, -, -, -, -, hstatus, -⟩ := h
  exact hstatus

theorem length_record (c : Cfg) (e : Env) : (record c e).length = 8 := rfl

/-- R161, as a frame to send. -/
theorem exec_systemStatusReq_sends {s : State} (hb : s.txBusy = false) :
    ∃ t, exec .systemStatusReq s = .next t ∧ SameInputs s t ∧
      t.Sends (wire s.cfg s.cfg.cmdSystemStatus (record s.cfg s.env)) :=
  ⟨_, statusRequestIsAnswered.1 s hb, ⟨rfl, rfl, rfl⟩, sends_of_written (length_record_le s.cfg s.env) rfl rfl rfl rfl⟩

/-- A status request that has crossed to an idle serializer is answered there. -/
theorem sends_of_request {d : Bool} {q q' : Pair} (h : q.Linked) (hb : (q.receiver d).txBusy = false)
    (hcross : Crossed (q.sender d).cfg.cmdSystemStatus [] d q q') :
    (q'.receiver d).cfg = (q.receiver d).cfg ∧
      (q'.receiver d).Sends
        (wire (q'.receiver d).cfg (q.sender d).cfg.cmdSystemStatus (record (q.receiver d).cfg (q.receiver d).env)) := by
  obtain ⟨-, r, b, ⟨⟨hcfg, henv, -⟩, -, hbusy⟩, hexec⟩ := hcross
  have hid : (q.sender d).cfg.cmdSystemStatus = r.cfg.cmdSystemStatus := by
    rw [hcfg]
    exact (cmdSystemStatus_of_ids (linked_agree h).2).symm
  rw [hid, selectRow_cmdSystemStatus (by rw [hcfg]; exact receiver_wf h), if_pos List.length_nil] at hexec
  obtain ⟨t, ht, ⟨hcfg', -, -⟩, hsends⟩ := exec_systemStatusReq_sends
    (s := accepted (frameOf r.cfg.cmdSystemStatus []) b r) (hbusy.trans hb)
  obtain rfl := Host.Outcome.next.inj (ht.symm.trans hexec)
  rw [hid, hcfg', ← hcfg, ← henv]
  exact ⟨rfl, hsends⟩

/-- A status report that has crossed is only routed (R163). -/
theorem routed_of_report {e : Bool} {c : Cfg} {env : Env} {q q' : Pair} (h : q.Linked)
    (hcross : Crossed (q.receiver e).cfg.cmdSystemStatus (record c env) e q q') :
    (q'.receiver e).out.route = routed .statusReport (q.receiver e).cfg.cmdSystemStatus (record c env) ∧
      (q'.receiver e).out.reply = none ∧ (q'.receiver e).txBusy = (q.receiver e).txBusy := by
  obtain ⟨-, r, b, ⟨⟨hcfg, -, -⟩, -, hbusy⟩, hexec⟩ := hcross
  rw [← hcfg] at hexec
  rw [selectRow_cmdSystemStatus (by rw [hcfg]; exact receiver_wf h), if_neg (by rw [length_record]; decide),
    (terminalFramesAreOnlyRouted _ _).1] at hexec
  obtain hend := Host.Outcome.next.inj hexec
  rw [← hend, ← hcfg]
  exact ⟨rfl, rfl, hbusy⟩

/-- The request one way and its answer back, in 4 and 12 bytes. -/
theorem transfers_request_and_answer {d : Bool} {q : Pair} (h : q.Linked) (hs : (q.sender d).Sends
    (wire (q.sender d).cfg (q.sender d).cfg.cmdSystemStatus [])) (hfs : (q.sender d).rxFsm = .idle)
    (hfr : (q.receiver d).rxFsm = .idle) (hbr : (q.receiver d).txBusy = false) :
    ∃ q', Pair.transfers (List.replicate 4 d ++ List.replicate 12 (!d)) q = .next q' ∧
      (q'.sender d).out.route =
        routed .statusReport (q.sender d).cfg.cmdSystemStatus (record (q.receiver d).cfg (q.receiver d).env) ∧
      (q'.sender d).out.reply = none ∧ (q'.sender d).txBusy = false ∧ (q'.receiver d).txBusy = false ∧
      (q'.sender d).rxFsm = .idle ∧ (q'.receiver d).rxFsm = .idle := by
  obtain ⟨u, hu, hrequest⟩ := transfers_of_wire (p := []) (Nat.zero_le 128) h hs hfr
  obtain ⟨hcfg, hanswer⟩ := sends_of_request h hbr hrequest
  obtain ⟨hidle, -, ⟨hcfgs, -, -⟩, hfs', -⟩ := hrequest.1
  obtain ⟨-, hfr', -⟩ := accepted_of_crossed hrequest
  have hu' : u.Linked := linked_of_sameCfg hcfgs hcfg h
  rw [← hcfgs, ← sender_not d u] at hanswer
  obtain ⟨q', hq', hreport⟩ := transfers_of_wire (d := !d) (length_record_le _ _) hu' hanswer
    (by rw [receiver_not]; exact hfs'.trans hfs)
  rw [← receiver_not d u] at hreport
  obtain ⟨hroute, hreply, hbusy⟩ := routed_of_report hu' hreport
  obtain ⟨-, hfs'', -⟩ := accepted_of_crossed hreport
  obtain ⟨⟨hidle', -, -, hfr'', -⟩, -⟩ := hreport
  simp only [receiver_not, sender_not] at hroute hreply hbusy hfs'' hidle' hfr''
  rw [hcfgs] at hroute
  exact ⟨q', (transfers_append hu).trans hq', hroute, hreply, hbusy.trans hidle, hidle', hfs'', hfr''.trans hfr'⟩

/-- Settles O57: the conditions of R224, and the frames that cross. -/
theorem linkCarriesAWholeFrame : Obligations.LinkCarriesAWholeFrame := by
  refine ⟨joined_iff, fun d q hn hf hj => ?_, fun d q cmd p hn hf hj hp hb hi hN himg hidle => ?_,
    fun d q hn hf hj hb hi hN himg hfs hfr hbr => ?_⟩
  · rw [Pair.transfer, hn, hf, hj]
    rfl
  · obtain ⟨q', hq', hcross⟩ := transfers_of_wire hp ⟨hn, hf, hj⟩ (sends_of_image hp hb hi hN himg) hidle
    obtain ⟨hev, hidle', haccept⟩ := accepted_of_crossed hcross
    obtain ⟨⟨hidle'', hframes, -, hrx⟩, -⟩ := hcross
    exact ⟨q', hq', hev, hidle', haccept, hidle'', hframes, hrx⟩
  · exact transfers_request_and_answer ⟨hn, hf, hj⟩ (sends_of_image (Nat.zero_le 128) hb hi hN himg) hfs hfr hbr

end Sys2Proof.Machine
end

section
/-! What a transmit event does to the serializer and what a receive event does to the decoder and the dispatcher, each as
a value that does not depend on the other side or on a counter (R54, R22). -/

namespace Sys2Proof.Machine

open Sys2Proof.Spec

/-- Several counters plus one, in turn. -/
def bumpAll (ks : List Counter) (c : Counters) : Counters := ks.foldl (fun c k => c.bump k) c

theorem bump_comm (k k' : Counter) (c : Counters) : (c.bump k).bump k' = (c.bump k').bump k := by
  cases k <;> cases k' <;> rfl

theorem bumpAll_bump (ks : List Counter) (k : Counter) (c : Counters) :
    bumpAll ks (c.bump k) = (bumpAll ks c).bump k := by
  induction ks generalizing c with
  | nil => rfl
  | cons k' ks ih =>
    show bumpAll ks ((c.bump k).bump k') = (bumpAll ks (c.bump k')).bump k
    rw [bump_comm, ih]

theorem bumpAll_comm (ks ls : List Counter) (c : Counters) : bumpAll ks (bumpAll ls c) = bumpAll ls (bumpAll ks c) := by
  induction ks generalizing c with
  | nil => rfl
  | cons k ks ih =>
    show bumpAll ks ((bumpAll ls c).bump k) = bumpAll ls (bumpAll ks (c.bump k))
    rw [← bumpAll_bump, ih]

/-! Transmit events. -/

/-- The serializer's registers (R16, R17). -/
structure TxSide where
  busy : Bool
  buf : Memory
  n : Nat
  idx : Nat

def State.txSide (s : State) : TxSide := ⟨s.txBusy, s.txBuf, s.txN, s.txIdx⟩

/-- The three transmit events. -/
def IsTransmit (i : Instr) : Prop := (∃ cmd p, i = .txReq cmd p) ∨ i = .txPop ∨ i = .txAbort

/-- What a transmit event leaves in the serializer, counts and reports. -/
structure TxEffect where
  side : TxSide
  counters : List Counter
  ev : Option TxEv

def TxEffect.apply (e : TxEffect) (s : State) : State :=
  { s with
    txBusy := e.side.busy
    txBuf := e.side.buf
    txN := e.side.n
    txIdx := e.side.idx
    cnt := bumpAll e.counters s.cnt
    out := { Out.silent with txEv := e.ev } }

/-- The serializer's own counters (R21, index 8 to 11). -/
def IsTxCounter (k : Counter) : Prop := k = .txFrames ∨ k = .txSkip ∨ k = .txBadLen ∨ k = .txAbort

/-- The event's effect from any state with this `cfg` and this serializer. -/
def TransmitsAs (i : Instr) (a : State) (e : TxEffect) : Prop :=
  (∀ k ∈ e.counters, IsTxCounter k) ∧ ∀ s : State, s.cfg = a.cfg → s.txSide = a.txSide → exec i s = .next (e.apply s)

theorem txSide_eq_iff {s a : State} :
    s.txSide = a.txSide ↔ s.txBusy = a.txBusy ∧ s.txBuf = a.txBuf ∧ s.txN = a.txN ∧ s.txIdx = a.txIdx := by
  simp [State.txSide]

theorem transmitsAs_txReq {cmd : Byte} {p : List Byte} {a t : State} (h : execTxReq cmd p a = .next t) :
    ∃ e, TransmitsAs (.txReq cmd p) a e := by
  rcases execTxReq_next h with ⟨hp, -⟩ | ⟨hp, hb, -⟩ | ⟨hp, hb, -⟩
  · refine ⟨⟨a.txSide, [.txBadLen], some (.refused .txBadLength)⟩, by simp [IsTxCounter], fun s hc hs => ?_⟩
    exact (execTxReq_tooLong hp).trans (by rw [← hs]; rfl)
  · refine ⟨⟨a.txSide, [.txSkip], some (.refused .txBusy)⟩, by simp [IsTxCounter], fun s hc hs => ?_⟩
    exact (execTxReq_busy hp ((txSide_eq_iff.mp hs).1.trans hb)).trans (by rw [← hs]; rfl)
  · refine ⟨⟨(loaded cmd p a).txSide, [], some .taken⟩, by simp, fun s hc hs => ?_⟩
    obtain ⟨hbusy, hbuf, -, -⟩ := txSide_eq_iff.mp hs
    have hside : (loaded cmd p a).txSide = (loaded cmd p s).txSide := by simp [State.txSide, loaded, hc, hbuf]
    exact (execTxReq_idle hp (hbusy.trans hb)).trans (by rw [hside]; rfl)

theorem transmitsAs_txPop {a t : State} (h : execTxPop a = .next t) : ∃ e, TransmitsAs .txPop a e := by
  rcases execTxPop_next h with ⟨hb, -⟩ | ⟨hb, hlt, hn, -⟩ | ⟨hb, hlt, hn, -⟩
  · refine ⟨⟨a.txSide, [], some .empty⟩, by simp, fun s hc hs => ?_⟩
    exact (execTxPop_idle ((txSide_eq_iff.mp hs).1.trans hb)).trans (by rw [← hs]; rfl)
  · refine ⟨⟨⟨a.txBusy, a.txBuf, a.txN, a.txIdx + 1⟩, [], some (.byte (a.txBuf.read a.txIdx) false)⟩, by simp,
      fun s hc hs => ?_⟩
    obtain ⟨hbusy, hbuf, hN, hidx⟩ := txSide_eq_iff.mp hs
    rw [← hidx, ← hN] at hn
    exact (execTxPop_nextByte (hbusy.trans hb) hn (hidx.trans_lt hlt)).trans (by rw [← hbusy, ← hbuf, ← hN, ← hidx]; rfl)
  · refine ⟨⟨⟨false, a.txBuf, a.txN, a.txIdx⟩, [.txFrames], some (.byte (a.txBuf.read a.txIdx) true)⟩,
      by simp [IsTxCounter], fun s hc hs => ?_⟩
    obtain ⟨hbusy, hbuf, hN, hidx⟩ := txSide_eq_iff.mp hs
    rw [← hidx, ← hN] at hn
    exact (execTxPop_lastByte (hbusy.trans hb) hn (hidx.trans_lt hlt)).trans (by rw [← hbuf, ← hN, ← hidx]; rfl)

theorem transmitsAs_txAbort {a t : State} (h : execTxAbort a = .next t) : ∃ e, TransmitsAs .txAbort a e := by
  rcases execTxAbort_next h with ⟨hb, -⟩ | ⟨hb, -⟩
  · refine ⟨⟨⟨false, a.txBuf, a.txN, a.txIdx⟩, [.txAbort], some .aborted⟩, by simp [IsTxCounter], fun s hc hs => ?_⟩
    obtain ⟨hbusy, hbuf, hN, hidx⟩ := txSide_eq_iff.mp hs
    exact (execTxAbort_busy (hbusy.trans hb)).trans (by rw [← hbuf, ← hN, ← hidx]; rfl)
  · refine ⟨⟨a.txSide, [], none⟩, by simp, fun s hc hs => ?_⟩
    exact (execTxAbort_idle ((txSide_eq_iff.mp hs).1.trans hb)).trans (by rw [← hs]; rfl)

theorem exists_transmitsAs {i : Instr} {a t : State} (hi : IsTransmit i) (h : exec i a = .next t) :
    ∃ e, TransmitsAs i a e ∧ t = e.apply a := by
  obtain ⟨e, he⟩ : ∃ e, TransmitsAs i a e := by
    rcases hi with ⟨cmd, p, rfl⟩ | rfl | rfl
    · exact transmitsAs_txReq h
    · exact transmitsAs_txPop h
    · exact transmitsAs_txAbort h
  exact ⟨e, he, Host.Outcome.next.inj (h.symm.trans (he.2 a rfl rfl))⟩

/-- The other counters are not the serializer's. -/
theorem get_bumpAll_of_not_tx {ks : List Counter} (hks : ∀ k ∈ ks, IsTxCounter k) {k : Counter} (hk : ¬ IsTxCounter k)
    (c : Counters) : (bumpAll ks c).get k = c.get k := by
  induction ks generalizing c with
  | nil => rfl
  | cons l ks ih =>
    obtain ⟨hl, hks'⟩ := List.forall_mem_cons.mp hks
    refine (ih hks' _).trans (get_bump_other ?_ c)
    rintro rfl
    exact hk hl

/-- Settles O49: the effect writes the serializer and its counters. -/
theorem transmitEventsLeaveTheReceiver : Obligations.TransmitEventsLeaveTheReceiver := by
  intro i s t hi h
  obtain ⟨e, ⟨hks, -⟩, rfl⟩ := exists_transmitsAs hi h
  have hcnt : ∀ k, ¬ IsTxCounter k → (e.apply s).cnt.get k = s.cnt.get k := fun k hk => get_bumpAll_of_not_tx hks hk s.cnt
  exact ⟨sameReceiver_refl s, ⟨rfl, fun _ => rfl⟩, ⟨rfl, rfl, rfl⟩,
    ⟨hcnt .rxAccept (by simp [IsTxCounter]), hcnt .rxStray (by simp [IsTxCounter]), hcnt .rxBadLen (by simp [IsTxCounter]),
      hcnt .rxBadCks (by simp [IsTxCounter]), hcnt .rxTimeout (by simp [IsTxCounter])⟩,
    ⟨hcnt .dspUnknown (by simp [IsTxCounter]), hcnt .dspUnimpl (by simp [IsTxCounter]),
      hcnt .dspBadPayload (by simp [IsTxCounter])⟩, rfl, rfl, rfl⟩

end Sys2Proof.Machine
end

section
/-! Receive events in the same way: an effect on the decoder and the dispatcher, and a reply after it where the frame has
one. -/

namespace Sys2Proof.Machine

open Sys2Proof.Spec

/-- What a receive event or a frame row leaves in the decoder and the dispatcher, counts and reports. -/
structure RxEffect where
  rxFsm : RxFsm
  rxN : Nat
  rxExpValid : Bool
  rxExp : Byte
  rxAcc : Memory
  rxStall : Nat
  activeCity : Memory
  forceRefresh : Bool
  out : Out
  counters : List Counter

/-- The effect that ends in this state's registers and outputs. -/
def RxEffect.of (ks : List Counter) (t : State) : RxEffect :=
  ⟨t.rxFsm, t.rxN, t.rxExpValid, t.rxExp, t.rxAcc, t.rxStall, t.activeCity, t.forceRefresh, t.out, ks⟩

def RxEffect.apply (e : RxEffect) (s : State) : State :=
  { s with
    rxFsm := e.rxFsm
    rxN := e.rxN
    rxExpValid := e.rxExpValid
    rxExp := e.rxExp
    rxAcc := e.rxAcc
    rxStall := e.rxStall
    activeCity := e.activeCity
    forceRefresh := e.forceRefresh
    cnt := bumpAll e.counters s.cnt
    out := e.out }

/-- The state with another serializer and other counters. -/
def State.withTx (x : TxSide) (c : Counters) (s : State) : State :=
  { s with txBusy := x.busy, txBuf := x.buf, txN := x.n, txIdx := x.idx, cnt := c }

/-- A meaning with this effect, whatever the serializer and the counters hold. -/
def ActsAs (run : State → Host.Outcome State Fault Refusal) (s : State) (e : RxEffect) : Prop :=
  ∀ x c, run (s.withTx x c) = .next (e.apply (s.withTx x c))

/-- A meaning with this effect and a route, and then a reply. -/
def RepliesAfter (run : State → Host.Outcome State Fault Refusal) (s : State) (e : RxEffect) (r : Route) (k : Byte)
    (p : List Byte) (cmd : Byte) (q : List Byte) : Prop :=
  ∀ x c, run (s.withTx x c) = submitReply cmd q (routeTo r k p (e.apply (s.withTx x c)))

/-- One of the two. -/
def Receives (run : State → Host.Outcome State Fault Refusal) (s : State) : Prop :=
  (∃ e, ActsAs run s e) ∨ ∃ e r k p cmd q, RepliesAfter run s e r k p cmd q

/-! The frame rows. -/

theorem actsAs_routeTo {run : State → Host.Outcome State Fault Refusal} {s : State} (r : Route) (k : Byte) (p : List Byte)
    (h : ∀ x c, run (s.withTx x c) = .next (routeTo r k p (s.withTx x c))) : Receives run s :=
  .inl ⟨.of [] (routeTo r k p s), h⟩

theorem actsAs_drop {run : State → Host.Outcome State Fault Refusal} {s : State} (d : DropCause) (k : Byte)
    (p : List Byte) (h : ∀ x c, run (s.withTx x c) = .next (drop d k p (s.withTx x c))) : Receives run s :=
  .inl ⟨.of [d.counter] (drop d k p s), h⟩

theorem receives_setCity (p : List Byte) (s : State) : Receives (exec (.setCity p)) s := by
  cases hr : s.cfg.role with
  | display => exact actsAs_drop .unimplemented s.cfg.cmdSetCity p fun _ _ => execSetCity_display hr
  | connectivity =>
    rcases Nat.lt_or_ge 31 p.length with hp | hp
    · exact actsAs_drop .badPayload s.cfg.cmdSetCity p fun _ _ => execSetCity_tooLong hr hp
    · exact .inl ⟨.of [] (routeTo .citySet s.cfg.cmdSetCity p
        { s with activeCity := s.activeCity.writeBytes 0 (cityPad p), forceRefresh := true }),
        fun _ _ => execSetCity_stored hr hp⟩

theorem receives_frameRow {i : Instr} (hi : i.isFrame = true) (s : State) : Receives (exec i) s := by
  cases i with
  | getWeather p =>
    cases hr : s.cfg.role with
    | connectivity =>
      exact .inr ⟨.of [] s, .weatherFetch, s.cfg.cmdGetWeather, p, s.cfg.cmdAck, [],
        fun _ _ => execGetWeather_connectivity hr⟩
    | display => exact actsAs_routeTo .weatherData s.cfg.cmdGetWeather p fun _ _ => execGetWeather_display hr
  | getTime p => exact actsAs_drop .unimplemented s.cfg.cmdGetTime p fun _ _ => rfl
  | setTime p => exact actsAs_drop .unimplemented s.cfg.cmdSetTime p fun _ _ => rfl
  | setCity p => exact receives_setCity p s
  | getForecast p => exact actsAs_drop .unimplemented s.cfg.cmdGetForecast p fun _ _ => rfl
  | systemStatusReq =>
    exact .inr ⟨.of [] s, .statusReq, s.cfg.cmdSystemStatus, [], s.cfg.cmdSystemStatus, record s.cfg s.env,
      fun _ _ => execSystemStatusReq_eq _⟩
  | systemStatusReport p => exact actsAs_routeTo .statusReport s.cfg.cmdSystemStatus p fun _ _ => rfl
  | ack p => exact actsAs_routeTo .ack s.cfg.cmdAck p fun _ _ => rfl
  | nack p => exact actsAs_routeTo .nack s.cfg.cmdNack p fun _ _ => rfl
  | error p => exact actsAs_routeTo .error s.cfg.cmdError p fun _ _ => rfl
  | unknownCommand cmd p => exact actsAs_drop .unknownCommand cmd p fun _ _ => rfl
  | rxByte | rxTick | txReq | txPop | txAbort | forceRefreshClr | reset | xor8 | encode => cases hi

/-! The receive events. -/

/-- R109: the accept counter is one more counter of the row's effect. -/
theorem receives_acceptFrame (f : Frame) (u : State) : Receives (acceptFrame f) u := by
  have hrow := receives_frameRow (isFrame_selectRow u.cfg f.command f.payload)
    ((u.bump .rxAccept).setRxEv (.accepted f)).toIdle
  have hrun : ∀ x c, acceptFrame f (u.withTx x c) = exec (selectRow u.cfg f.command f.payload)
      ((((u.bump .rxAccept).setRxEv (.accepted f)).toIdle).withTx x (c.bump .rxAccept)) := fun _ _ => dispatch_eq_exec f _
  rcases hrow with ⟨e, he⟩ | ⟨e, r, k, p, cmd, q, he⟩
  · exact .inl ⟨{ e with counters := .rxAccept :: e.counters }, fun x c => (hrun x c).trans (he x _)⟩
  · exact .inr ⟨{ e with counters := .rxAccept :: e.counters }, r, k, p, cmd, q, fun x c => (hrun x c).trans (he x _)⟩

theorem completeFrame_of_verified {s : State} {f : Frame} (hf : extractFrame s = some f)
    (hv : verify f.payload f.checksum = true) : completeFrame s = acceptFrame f s := by
  have hl : zextLength f.length ≤ 128 := by
    obtain ⟨hle, rfl⟩ := extractFrame_eq_some hf
    exact hle
  simp [completeFrame, hf, hv, hl]

theorem completeFrame_of_badChecksum {s : State} {f : Frame} (hf : extractFrame s = some f)
    (hv : verify f.payload f.checksum = false) : completeFrame s = .next (discardFrame .badChecksum s) := by
  simp [completeFrame, hf, hv]

theorem receives_storeOrComplete {u t : State}
    (h : (u.frameComplete = false ∧ t = u.setRxEv .stored) ∨
      (u.frameComplete = true ∧ ∃ f, extractFrame u = some f ∧
        ((verify f.payload f.checksum = true ∧ acceptFrame f u = .next t) ∨
          (verify f.payload f.checksum = false ∧ t = discardFrame .badChecksum u)))) :
    Receives storeOrComplete u := by
  rcases h with ⟨hc, -⟩ | ⟨hc, f, hf, ⟨hv, -⟩ | ⟨hv, -⟩⟩
  · exact .inl ⟨.of [] (u.setRxEv .stored), fun x c => storeOrComplete_of_incomplete (s := u.withTx x c) hc⟩
  · have hrun : ∀ x c, storeOrComplete (u.withTx x c) = acceptFrame f (u.withTx x c) := fun x c =>
      (storeOrComplete_of_complete (s := u.withTx x c) hc).trans (completeFrame_of_verified (s := u.withTx x c) hf hv)
    simpa only [Receives, ActsAs, RepliesAfter, hrun] using receives_acceptFrame f u
  · exact .inl ⟨.of [.rxBadCks] (discardFrame .badChecksum u), fun x c =>
      (storeOrComplete_of_complete (s := u.withTx x c) hc).trans
        (completeFrame_of_badChecksum (s := u.withTx x c) hf hv)⟩

theorem receives_afterAppend {s t : State} (h : afterAppend s = .next t) : Receives afterAppend s := by
  rcases afterAppend_next h with ⟨hd, hl, -⟩ | ⟨u, ⟨hd, hl, rfl⟩ | ⟨hd, rfl⟩, hend⟩
  · exact .inl ⟨.of [.rxBadLen] (discardFrame .badLength s), fun x c =>
      afterAppend_of_oversized (s := s.withTx x c) hd hl⟩
  · have hrun : ∀ x c, afterAppend (s.withTx x c) =
        storeOrComplete (State.withTx x c { s with rxExp := s.rxAcc.read 2, rxExpValid := true }) := fun x c =>
      afterAppend_of_due (s := s.withTx x c) hd hl
    rcases receives_storeOrComplete hend with ⟨e, he⟩ | ⟨e, r, k, p, cmd, q, he⟩
    · exact .inl ⟨e, fun x c => (hrun x c).trans (he x c)⟩
    · exact .inr ⟨e, r, k, p, cmd, q, fun x c => (hrun x c).trans (he x c)⟩
  · have hrun : ∀ x c, afterAppend (u.withTx x c) = storeOrComplete (u.withTx x c) := fun x c =>
      afterAppend_of_not_due (s := u.withTx x c) hd
    simpa only [Receives, ActsAs, RepliesAfter, hrun] using receives_storeOrComplete hend

theorem receives_rxByte {b : Byte} {s t : State} (h : execRxByte b s = .next t) : Receives (execRxByte b) s := by
  rcases execRxByte_next h with ⟨hf, hb, -⟩ | ⟨hf, hb, -⟩ | ⟨hf, hn, happ⟩
  · exact .inl ⟨.of [] (startedFrame b s), fun x c => execRxByte_start (s := s.withTx x c) hf hb⟩
  · exact .inl ⟨.of [.rxStray] (strayByte b s.beginStep), fun x c => execRxByte_stray (s := s.withTx x c) hf hb⟩
  · have hrun : ∀ x c, execRxByte b (s.withTx x c) = afterAppend ((appended b s).withTx x c) := fun x c =>
      execRxByte_append (s := s.withTx x c) hf hn
    rcases receives_afterAppend happ with ⟨e, he⟩ | ⟨e, r, k, p, cmd, q, he⟩
    · exact .inl ⟨e, fun x c => (hrun x c).trans (he x c)⟩
    · exact .inr ⟨e, r, k, p, cmd, q, fun x c => (hrun x c).trans (he x c)⟩

theorem receives_rxTick (s : State) : Receives execRxTick s := by
  cases hf : s.rxFsm with
  | idle => exact .inl ⟨.of [] s.beginStep, fun x c => execRxTick_idle (s := s.withTx x c) hf⟩
  | accumulating =>
    rcases Nat.lt_or_ge (s.rxStall + 1) s.cfg.stallLimit with ht | ht
    · exact .inl ⟨.of [] { s.beginStep with rxStall := s.rxStall + 1 }, fun x c =>
        execRxTick_below (s := s.withTx x c) hf ht⟩
    · exact .inl ⟨.of [.rxTimeout] (discardFrame .timeout s.beginStep), fun x c =>
        execRxTick_expires (s := s.withTx x c) hf ht⟩

/-- The two receive events. -/
def IsReceive (i : Instr) : Prop := (∃ b, i = .rxByte b) ∨ i = .rxTick

theorem receives_event {i : Instr} {s t : State} (hi : IsReceive i) (h : exec i s = .next t) : Receives (exec i) s := by
  rcases hi with ⟨b, rfl⟩ | rfl
  · exact receives_rxByte h
  · exact receives_rxTick s

/-- A receive event does not look at the outputs of the step before. -/
theorem exec_receive_out {i : Instr} (hi : IsReceive i) (o : Out) (s : State) : exec i { s with out := o } = exec i s := by
  rcases hi with ⟨b, rfl⟩ | rfl <;> rfl

end Sys2Proof.Machine
end

section
/-! The two directions are independent (R54), and no rule reads a counter (R22). -/

namespace Sys2Proof.Machine

open Sys2Proof.Spec

/-- Settles O51: each event's effect is the same after the other as before it, and the two write different fields. -/
theorem receiveAndTransmitCommute : Obligations.ReceiveAndTransmitCommute := by
  intro i j s a ab hi hj ha hreply hab
  obtain ⟨etx, ⟨-, htx⟩, rfl⟩ := exists_transmitsAs hj hab
  rcases receives_event hi ha with ⟨erx, hrx⟩ | ⟨e, r, k, p, cmd, q, hrx⟩
  · obtain rfl : erx.apply s = a := Host.Outcome.next.inj ((hrx s.txSide s.cnt).symm.trans ha)
    have hswap : exec i (etx.apply s) = .next (erx.apply (etx.apply s)) :=
      (exec_receive_out hi _ (s.withTx etx.side (bumpAll etx.counters s.cnt))).trans (hrx _ _)
    refine ⟨etx.apply s, _, htx s rfl rfl, hswap, rfl, rfl, ?_⟩
    have hcnt := bumpAll_comm erx.counters etx.counters s.cnt
    simp [RxEffect.apply, TxEffect.apply, hcnt]
  · have hs := (hrx s.txSide s.cnt).symm.trans ha
    rcases submitReply_next hs with ⟨-, rfl⟩ | ⟨-, -, rfl⟩ <;> cases hreply

/-- Only the counters of the next state depend on the counters. -/
theorem exec_event_withCnt {e : Event} {s t : State} (h : exec e.instr s = .next t) (c : Counters) :
    ∃ c', exec e.instr { s with cnt := c } = .next { t with cnt := c' } := by
  have transmit : IsTransmit e.instr → ∃ c', exec e.instr { s with cnt := c } = .next { t with cnt := c' } := by
    intro hi
    obtain ⟨etx, ⟨-, htx⟩, rfl⟩ := exists_transmitsAs hi h
    exact ⟨_, htx { s with cnt := c } rfl rfl⟩
  have receive : IsReceive e.instr → ∃ c', exec e.instr { s with cnt := c } = .next { t with cnt := c' } := by
    intro hi
    rcases receives_event hi h with ⟨erx, hrx⟩ | ⟨erx, r, k, p, cmd, q, hrx⟩
    · obtain rfl := Host.Outcome.next.inj (h.symm.trans (hrx s.txSide s.cnt))
      exact ⟨_, hrx s.txSide c⟩
    · rcases submitReply_next ((hrx s.txSide s.cnt).symm.trans h) with ⟨hb, rfl⟩ | ⟨hb, hq, rfl⟩
      · exact ⟨_, (hrx s.txSide c).trans (submitReply_of_busy hb)⟩
      · exact ⟨_, (hrx s.txSide c).trans (submitReply_of_idle hb hq)⟩
  cases e with
  | rxByte b => exact receive (.inl ⟨b, rfl⟩)
  | rxTick => exact receive (.inr rfl)
  | txReq cmd p => exact transmit (.inl ⟨cmd, p, rfl⟩)
  | txPop => exact transmit (.inr (.inl rfl))
  | txAbort => exact transmit (.inr (.inr rfl))
  | reset | forceRefreshClr =>
    obtain rfl := Host.Outcome.next.inj h
    exact ⟨_, rfl⟩

/-- Settles O47, by the event that is delivered, if one is. -/
theorem countersInfluenceNothing : Obligations.CountersInfluenceNothing := by
  intro s s' c h
  obtain ⟨hw, ⟨hi, rfl⟩ | ⟨i, rest, hi, he⟩⟩ := step_next h
  · refine ⟨{ s with cnt := c }.beginStep, ?_, rfl⟩
    simp [step, hw, hi]
  · obtain ⟨c', hc⟩ := exec_event_withCnt he c
    exact ⟨_, (step_of_input (s := { s with cnt := c }) hw hi).trans hc, rfl⟩

end Sys2Proof.Machine
end

section
/-! What is not architectural is not observed (10_state section 1, 93 U4): two states alike in the rest take every step
alike, operation by operation. -/

namespace Sys2Proof.Machine

/-! Two states alike, unit by unit. -/

/-- The same parameters, inputs, counters and outputs. -/
def AlikeShared (s t : State) : Prop :=
  s.cfg = t.cfg ∧ s.env = t.env ∧ s.inputs = t.inputs ∧ s.cnt = t.cnt ∧ s.out = t.out

/-- The same decoder, but for the accumulator beyond the bytes received and a length that is not valid. -/
def AlikeRx (s t : State) : Prop :=
  s.rxFsm = t.rxFsm ∧ s.rxN = t.rxN ∧ s.rxExpValid = t.rxExpValid ∧ (s.rxExpValid = true → s.rxExp = t.rxExp) ∧
    (∀ a, a < s.rxN → s.rxAcc.read a = t.rxAcc.read a) ∧ s.rxStall = t.rxStall

/-- The same serializer, but for what it holds while idle and beyond the pending frame. -/
def AlikeTx (s t : State) : Prop :=
  s.txBusy = t.txBusy ∧ (s.txBusy = true → s.txN = t.txN) ∧ (s.txBusy = true → s.txIdx = t.txIdx) ∧
    (s.txBusy = true → ∀ a, a < s.txN → s.txBuf.read a = t.txBuf.read a)

/-- The same city register and flag. -/
def AlikeCity (s t : State) : Prop :=
  (∀ a, a < 32 → s.activeCity.read a = t.activeCity.read a) ∧ s.forceRefresh = t.forceRefresh

def Alike (s t : State) : Prop := AlikeShared s t ∧ AlikeRx s t ∧ AlikeTx s t ∧ AlikeCity s t

theorem alike_iff {s t : State} : Alike s t ↔ s.SameArch t ∧ s.out = t.out := by
  constructor
  · rintro ⟨⟨hc, he, hi, hk, ho⟩, ⟨hf, hn, hv, hx, ha, hst⟩, ⟨hb, hN, hidx, hbuf⟩, hcity, hr⟩
    exact ⟨⟨hc, he, hi, hf, hn, hv, hx, ha, hst, hb, hN, hidx, hbuf, hcity, hr, hk⟩, ho⟩
  · rintro ⟨⟨hc, he, hi, hf, hn, hv, hx, ha, hst, hb, hN, hidx, hbuf, hcity, hr, hk⟩, ho⟩
    exact ⟨⟨hc, he, hi, hk, ho⟩, ⟨hf, hn, hv, hx, ha, hst⟩, ⟨hb, hN, hidx, hbuf⟩, hcity, hr⟩

/-- Where the first outcome is a next state, the second is one that is alike. -/
def RunAlike (o o' : Host.Outcome State Fault Refusal) : Prop := ∀ s', o = .next s' → ∃ t', o' = .next t' ∧ Alike s' t'

theorem runAlike_next {s t : State} (h : Alike s t) : RunAlike (.next s) (.next t) := by
  intro s' hs
  exact ⟨t, rfl, Host.Outcome.next.inj hs ▸ h⟩

/-! The shared updates. -/

section updates

variable {s t : State} (h : Alike s t)

include h

theorem alike_bump (k : Counter) : Alike (s.bump k) (t.bump k) := by
  obtain ⟨⟨hc, he, hi, hk, ho⟩, hunits⟩ := h
  exact ⟨⟨hc, he, hi, congrArg (Counters.bump k) hk, ho⟩, hunits⟩

/-- The same change to the output records. -/
theorem alike_out (g : Out → Out) : Alike { s with out := g s.out } { t with out := g t.out } := by
  obtain ⟨⟨hc, he, hi, hk, ho⟩, hunits⟩ := h
  exact ⟨⟨hc, he, hi, hk, congrArg g ho⟩, hunits⟩

theorem alike_setRxEv (e : RxEv) : Alike (s.setRxEv e) (t.setRxEv e) := alike_out h fun o => { o with rxEv := some e }

theorem alike_setTxEv (e : TxEv) : Alike (s.setTxEv e) (t.setTxEv e) := alike_out h fun o => { o with txEv := some e }

theorem alike_setReply (r : ReplyOut) : Alike (s.setReply r) (t.setReply r) :=
  alike_out h fun o => { o with reply := some r }

theorem alike_routeTo (r : Route) {cmd cmd' : Byte} (hcmd : cmd = cmd') (p : List Byte) :
    Alike (routeTo r cmd p s) (routeTo r cmd' p t) :=
  hcmd ▸ alike_out h fun o => { o with route := some ⟨r, cmd, lengthByte p, p⟩, reply := none }

theorem alike_drop (k : DropCause) {cmd cmd' : Byte} (hcmd : cmd = cmd') (p : List Byte) :
    Alike (drop k cmd p s) (drop k cmd' p t) :=
  alike_routeTo (alike_bump h k.counter) k.route hcmd p

/-- R111: `Idle` makes the accumulator and the length non-architectural. -/
theorem alike_toIdle : Alike s.toIdle t.toIdle := by
  obtain ⟨hshared, -, htx, hcity⟩ := h
  exact ⟨hshared, ⟨rfl, rfl, rfl, fun hv => absurd hv Bool.false_ne_true,
    fun a ha => absurd ha (Nat.not_lt_zero a), rfl⟩, htx, hcity⟩

theorem alike_discardFrame (k : DiscardCause) : Alike (discardFrame k s) (discardFrame k t) :=
  alike_setRxEv (alike_bump (alike_toIdle h) k.counter) _

theorem alike_refuse (k : RefuseCause) : Alike (refuse k s) (refuse k t) := alike_setTxEv (alike_bump h k.counter) _

/-- The serializer idle again. -/
theorem alike_txIdle : Alike { s with txBusy := false } { t with txBusy := false } := by
  obtain ⟨hshared, hrx, -, hcity⟩ := h
  exact ⟨hshared, hrx, ⟨rfl, fun hb => absurd hb Bool.false_ne_true, fun hb => absurd hb Bool.false_ne_true,
    fun hb => absurd hb Bool.false_ne_true⟩, hcity⟩

/-- R132: a loaded frame is the same bytes, whatever the buffer held. -/
theorem alike_loaded (cmd : Byte) (p : List Byte) : Alike (loaded cmd p s) (loaded cmd p t) := by
  obtain ⟨⟨hc, hshared⟩, hrx, -, hcity⟩ := h
  refine ⟨⟨hc, hshared⟩, hrx, ⟨rfl, fun _ => rfl, fun _ => rfl, fun _ a ha => ?_⟩, hcity⟩
  have hin : ∀ c, 0 ≤ a ∧ a < 0 + (frameImage c cmd p).length := fun c => by
    rw [length_frameImage, Nat.zero_add]
    exact ⟨Nat.zero_le a, ha⟩
  rw [loaded, loaded, Memory.read_writeBytes, Memory.read_writeBytes, if_pos (hin _), if_pos (hin _), hc]

theorem runAlike_submitReply {cmd cmd' : Byte} {p p' : List Byte} (hcmd : cmd = cmd') (hp : p = p') :
    RunAlike (submitReply cmd p s) (submitReply cmd' p' t) := by
  obtain ⟨-, -, ⟨hbusy, -⟩, -⟩ := id h
  subst hcmd hp
  intro s' hs
  rcases submitReply_next hs with ⟨hb, rfl⟩ | ⟨hb, hle, rfl⟩
  · exact ⟨_, submitReply_of_busy (hbusy ▸ hb), alike_setReply (alike_bump h .txSkip) _⟩
  · exact ⟨_, submitReply_of_idle (hbusy ▸ hb) hle, alike_setReply (alike_loaded h cmd p) _⟩

end updates

/-! The frame rows. -/

section rows

variable {s t : State} (h : Alike s t)

include h

theorem cfg_of_alike : s.cfg = t.cfg := h.1.1

/-- A command id is the same in both states. -/
theorem id_of_alike (id : Cfg → Byte) : id s.cfg = id t.cfg := congrArg id (cfg_of_alike h)

/-- R157: the register is written whole. -/
theorem alike_cityStored {p : List Byte} (hp : p.length ≤ 31) :
    Alike { s with activeCity := s.activeCity.writeBytes 0 (cityPad p), forceRefresh := true }
      { t with activeCity := t.activeCity.writeBytes 0 (cityPad p), forceRefresh := true } := by
  obtain ⟨hshared, hrx, htx, -⟩ := h
  refine ⟨hshared, hrx, htx, fun a ha => ?_, rfl⟩
  exact (read_writeBytes_cityPad s.activeCity hp ha).trans (read_writeBytes_cityPad t.activeCity hp ha).symm

theorem runAlike_setCity (p : List Byte) : RunAlike (execSetCity p s) (execSetCity p t) := by
  have hc := cfg_of_alike h
  have hid := id_of_alike h Cfg.cmdSetCity
  cases hr : s.cfg.role with
  | display =>
    rw [execSetCity_display hr, execSetCity_display (hc ▸ hr)]
    exact runAlike_next (alike_drop h _ hid p)
  | connectivity =>
    rcases Nat.lt_or_ge 31 p.length with hp | hp
    · rw [execSetCity_tooLong hr hp, execSetCity_tooLong (hc ▸ hr) hp]
      exact runAlike_next (alike_drop h _ hid p)
    · rw [execSetCity_stored hr hp, execSetCity_stored (hc ▸ hr) hp]
      exact runAlike_next (alike_routeTo (alike_cityStored h hp) _ hid p)

theorem runAlike_getWeather (p : List Byte) : RunAlike (execGetWeather p s) (execGetWeather p t) := by
  have hc := cfg_of_alike h
  have hid := id_of_alike h Cfg.cmdGetWeather
  cases hr : s.cfg.role with
  | connectivity =>
    rw [execGetWeather_connectivity hr, execGetWeather_connectivity (hc ▸ hr)]
    exact runAlike_submitReply (alike_routeTo h _ hid p) (id_of_alike h Cfg.cmdAck) rfl
  | display =>
    rw [execGetWeather_display hr, execGetWeather_display (hc ▸ hr)]
    exact runAlike_next (alike_routeTo h _ hid p)

/-- R161: the record is made of the parameters and the status inputs. -/
theorem runAlike_systemStatusReq : RunAlike (execSystemStatusReq s) (execSystemStatusReq t) := by
  obtain ⟨hc, he, -⟩ := h.1
  have hid := id_of_alike h Cfg.cmdSystemStatus
  exact runAlike_submitReply (alike_routeTo h _ hid []) hid (by rw [hc, he])

theorem runAlike_frameRow {i : Instr} (hi : i.isFrame = true) : RunAlike (exec i s) (exec i t) := by
  cases i with
  | getWeather p => exact runAlike_getWeather h p
  | getTime p => exact runAlike_next (alike_drop h .unimplemented (id_of_alike h Cfg.cmdGetTime) p)
  | setTime p => exact runAlike_next (alike_drop h .unimplemented (id_of_alike h Cfg.cmdSetTime) p)
  | setCity p => exact runAlike_setCity h p
  | getForecast p => exact runAlike_next (alike_drop h .unimplemented (id_of_alike h Cfg.cmdGetForecast) p)
  | systemStatusReq => exact runAlike_systemStatusReq h
  | systemStatusReport p => exact runAlike_next (alike_routeTo h .statusReport (id_of_alike h Cfg.cmdSystemStatus) p)
  | ack p => exact runAlike_next (alike_routeTo h .ack (id_of_alike h Cfg.cmdAck) p)
  | nack p => exact runAlike_next (alike_routeTo h .nack (id_of_alike h Cfg.cmdNack) p)
  | error p => exact runAlike_next (alike_routeTo h .error (id_of_alike h Cfg.cmdError) p)
  | unknownCommand cmd p => exact runAlike_next (alike_drop h .unknownCommand rfl p)
  | rxByte | rxTick | txReq | txPop | txAbort | forceRefreshClr | reset | xor8 | encode => cases hi

theorem runAlike_acceptFrame (f : Frame) : RunAlike (acceptFrame f s) (acceptFrame f t) := by
  have hdispatch : ∀ u, acceptFrame f u =
      exec (selectRow u.cfg f.command f.payload) ((u.bump .rxAccept).setRxEv (.accepted f)).toIdle := fun u =>
    dispatch_eq_exec f _
  rw [hdispatch, hdispatch, cfg_of_alike h]
  exact runAlike_frameRow (alike_toIdle (alike_setRxEv (alike_bump h _) _)) (isFrame_selectRow _ _ _)

end rows

/-! The decoder. -/

section decoder

variable {u v : State} (h : Alike u v)

include h

/-- R107: a complete frame lies inside the bytes received. -/
theorem extractFrame_alike {f : Frame} (hc : u.frameComplete = true) (hx : u.rxExp = u.rxAcc.read 2)
    (hf : extractFrame u = some f) : extractFrame v = some f := by
  obtain ⟨-, ⟨-, -, -, -, hacc, -⟩, -⟩ := h
  obtain ⟨-, hn⟩ := (frameComplete_iff u).mp hc
  obtain ⟨hl, rfl⟩ := extractFrame_eq_some hf
  rw [hx] at hn
  have hread : ∀ k, k < 4 → u.rxAcc.read k = v.rxAcc.read k := fun k hk => hacc k (by omega)
  have hpayload : u.rxAcc.readBytes 4 (u.rxAcc.read 2).toNat = v.rxAcc.readBytes 4 (u.rxAcc.read 2).toNat :=
    Memory.readBytes_congr fun k _ hk => hacc k (by omega)
  rw [hpayload, hread 1 (by omega), hread 2 (by omega), hread 3 (by omega)]
  exact extractFrame_of_le (by rwa [← hread 2 (by omega)])

theorem frameComplete_alike : u.frameComplete = v.frameComplete := by
  obtain ⟨-, ⟨-, hn, hv, hx, -⟩, -⟩ := h
  rw [Bool.eq_iff_iff, frameComplete_iff, frameComplete_iff, hn, ← hv]
  refine and_congr_right fun hvalid => ?_
  rw [hx hvalid]

theorem lengthDue_alike : u.lengthDue = v.lengthDue := by
  obtain ⟨-, ⟨-, hn, hv, -⟩, -⟩ := h
  rw [State.lengthDue, State.lengthDue, hn, hv]

theorem runAlike_storeOrComplete (hx : u.rxExpValid = true → u.rxExp = u.rxAcc.read 2) :
    RunAlike (storeOrComplete u) (storeOrComplete v) := by
  have hcomplete := frameComplete_alike h
  cases hc : u.frameComplete with
  | false =>
    rw [storeOrComplete_of_incomplete hc, storeOrComplete_of_incomplete (hcomplete ▸ hc)]
    exact runAlike_next (alike_setRxEv h _)
  | true =>
    rw [storeOrComplete_of_complete hc, storeOrComplete_of_complete (hcomplete ▸ hc)]
    cases hf : extractFrame u with
    | none =>
      intro s' hs
      rw [completeFrame, hf] at hs
      cases hs
    | some f =>
      have hf' := extractFrame_alike h hc (hx ((frameComplete_iff u).mp hc).1) hf
      cases hv : verify f.payload f.checksum with
      | true =>
        rw [completeFrame_of_verified hf hv, completeFrame_of_verified hf' hv]
        exact runAlike_acceptFrame h f
      | false =>
        rw [completeFrame_of_badChecksum hf hv, completeFrame_of_badChecksum hf' hv]
        exact runAlike_next (alike_discardFrame h _)

/-- R104: the latched length is the one received. -/
theorem alike_latch (hn : 4 ≤ u.rxN) :
    Alike { u with rxExp := u.rxAcc.read 2, rxExpValid := true } { v with rxExp := v.rxAcc.read 2, rxExpValid := true } := by
  obtain ⟨hshared, ⟨hf, hN, -, -, hacc, hst⟩, hunits⟩ := h
  exact ⟨hshared, ⟨hf, hN, rfl, fun _ => hacc 2 (by omega), hacc, hst⟩, hunits⟩

theorem runAlike_afterAppend (hx : u.rxExpValid = true → u.rxExp = u.rxAcc.read 2) :
    RunAlike (afterAppend u) (afterAppend v) := by
  have hdue := lengthDue_alike h
  cases hd : u.lengthDue with
  | false =>
    rw [afterAppend_of_not_due hd, afterAppend_of_not_due (hdue ▸ hd)]
    exact runAlike_storeOrComplete h hx
  | true =>
    obtain ⟨-, hn⟩ := (lengthDue_iff u).mp hd
    have hread : u.rxAcc.read 2 = v.rxAcc.read 2 := by
      obtain ⟨-, ⟨-, -, -, -, hacc, -⟩, -⟩ := h
      exact hacc 2 (by omega)
    rcases Nat.lt_or_ge 128 (u.rxAcc.read 2).toNat with hl | hl
    · rw [afterAppend_of_oversized hd hl, afterAppend_of_oversized (hdue ▸ hd) (hread ▸ hl)]
      exact runAlike_next (alike_discardFrame h _)
    · rw [afterAppend_of_due hd hl, afterAppend_of_due (hdue ▸ hd) (hread ▸ hl)]
      exact runAlike_storeOrComplete (alike_latch h hn) fun _ => rfl

end decoder

/-! The events. -/

section events

variable {s t : State} (h : s.SameArch t)

include h

/-- The output record of the step before is left behind. -/
theorem alike_beginStep : Alike s.beginStep t.beginStep := by
  obtain ⟨hc, he, hi, hf, hn, hv, hx, ha, hst, hb, hN, hidx, hbuf, hcity, hr, hk⟩ := h
  exact ⟨⟨hc, he, hi, hk, rfl⟩, ⟨hf, hn, hv, hx, ha, hst⟩, ⟨hb, hN, hidx, hbuf⟩, hcity, hr⟩

/-- R101, but for the report. -/
theorem alike_startedFrame (b : Byte) : Alike (startedFrame b s) (startedFrame b t) := by
  obtain ⟨⟨hc, he, hi, hk, -⟩, -, hunits⟩ := alike_beginStep h
  refine ⟨⟨hc, he, hi, hk, rfl⟩, ⟨rfl, rfl, rfl, fun hv => absurd hv Bool.false_ne_true, fun a ha => ?_, rfl⟩, hunits⟩
  obtain rfl : a = 0 := Nat.lt_one_iff.mp ha
  exact (Memory.read_write_same ..).trans (Memory.read_write_same ..).symm

/-- R103. -/
theorem alike_appended (b : Byte) : Alike (appended b s) (appended b t) := by
  obtain ⟨hshared, ⟨hf, hn, hv, hx, hacc, -⟩, hunits⟩ := alike_beginStep h
  refine ⟨hshared, ⟨hf, congrArg Nat.succ hn, hv, hx, fun a ha => ?_, rfl⟩, hunits⟩
  have ha' : a < s.rxN + 1 := ha
  have hn' : s.rxN = t.rxN := hn
  rw [appended, appended, Memory.read_write, Memory.read_write, ← hn']
  split
  · rfl
  · exact hacc a (show a < s.rxN by omega)

/-- R114, below the bound. -/
theorem alike_stalled :
    Alike { s.beginStep with rxStall := s.rxStall + 1 } { t.beginStep with rxStall := t.rxStall + 1 } := by
  obtain ⟨hshared, ⟨hf, hn, hv, hx, hacc, hst⟩, hunits⟩ := alike_beginStep h
  exact ⟨hshared, ⟨hf, hn, hv, hx, hacc, congrArg Nat.succ hst⟩, hunits⟩

/-- R135. -/
theorem alike_popped (hb : s.txBusy = true) :
    Alike { s.beginStep with txIdx := s.txIdx + 1 } { t.beginStep with txIdx := t.txIdx + 1 } := by
  obtain ⟨hshared, hrx, ⟨hbusy, hN, -, hbuf⟩, hcity⟩ := alike_beginStep h
  exact ⟨hshared, hrx, ⟨hbusy, hN, fun _ => congrArg Nat.succ (h.txIdx hb), hbuf⟩, hcity⟩

theorem runAlike_rxByte (hs : s.Inv) (b : Byte) : RunAlike (execRxByte b s) (execRxByte b t) := by
  have hc := h.cfg
  have hfsm := h.rxFsm
  cases hf : s.rxFsm with
  | idle =>
    by_cases hb : b = s.cfg.start
    · rw [execRxByte_start hf hb, execRxByte_start (hfsm ▸ hf) (hc ▸ hb)]
      exact runAlike_next (alike_startedFrame h b)
    · rw [execRxByte_stray hf hb, execRxByte_stray (hfsm ▸ hf) (hc ▸ hb)]
      exact runAlike_next (alike_setRxEv (alike_bump (alike_beginStep h) .rxStray) _)
  | accumulating =>
    obtain ⟨-, hrx, -⟩ := inv_iff.mp hs
    obtain ⟨-, -, -, hn, -, hexp⟩ := appended_of_receiverInv (b := b) hf hrx
    rw [execRxByte_append hf hn, execRxByte_append (hfsm ▸ hf) (h.rxN ▸ hn)]
    exact runAlike_afterAppend (alike_appended h b) fun hv => (hexp hv).1

theorem runAlike_rxTick : RunAlike (execRxTick s) (execRxTick t) := by
  have hfsm := h.rxFsm
  have hlimit : t.cfg.stallLimit = s.cfg.stallLimit := congrArg Cfg.stallLimit h.cfg.symm
  have hstall := h.rxStall.symm
  cases hf : s.rxFsm with
  | idle =>
    rw [execRxTick_idle hf, execRxTick_idle (hfsm ▸ hf)]
    exact runAlike_next (alike_beginStep h)
  | accumulating =>
    rcases Nat.lt_or_ge (s.rxStall + 1) s.cfg.stallLimit with ht | ht
    · rw [execRxTick_below hf ht, execRxTick_below (hfsm ▸ hf) (by rwa [hlimit, hstall])]
      exact runAlike_next (alike_stalled h)
    · rw [execRxTick_expires hf ht, execRxTick_expires (hfsm ▸ hf) (by rwa [hlimit, hstall])]
      exact runAlike_next (alike_discardFrame (alike_beginStep h) _)

theorem runAlike_txReq (cmd : Byte) (p : List Byte) : RunAlike (execTxReq cmd p s) (execTxReq cmd p t) := by
  rcases Nat.lt_or_ge 128 p.length with hp | hp
  · rw [execTxReq_tooLong hp, execTxReq_tooLong hp]
    exact runAlike_next (alike_refuse (alike_beginStep h) _)
  · cases hb : s.txBusy with
    | true =>
      rw [execTxReq_busy hp hb, execTxReq_busy hp (h.txBusy ▸ hb)]
      exact runAlike_next (alike_refuse (alike_beginStep h) _)
    | false =>
      rw [execTxReq_idle hp hb, execTxReq_idle hp (h.txBusy ▸ hb)]
      exact runAlike_next (alike_setTxEv (alike_loaded (alike_beginStep h) cmd p) _)

/-- R135 to R137: the byte handed over lies inside the pending frame. -/
theorem runAlike_txPop : RunAlike (execTxPop s) (execTxPop t) := by
  intro s' hs
  rcases execTxPop_next hs with ⟨hb, rfl⟩ | ⟨hb, hlt, hn, rfl⟩ | ⟨hb, hlt, hn, rfl⟩
  · exact ⟨_, execTxPop_idle (h.txBusy ▸ hb), alike_setTxEv (alike_beginStep h) _⟩
  · have hidx := h.txIdx hb
    have hN := h.txN hb
    have hread := h.txBuf hb s.txIdx (by omega)
    refine ⟨_, execTxPop_nextByte (h.txBusy ▸ hb) (by omega) (by omega), ?_⟩
    rw [hread, hidx]
    exact alike_setTxEv (hidx ▸ alike_popped h hb) _
  · have hidx := h.txIdx hb
    have hN := h.txN hb
    have hread := h.txBuf hb s.txIdx (by omega)
    refine ⟨_, execTxPop_lastByte (h.txBusy ▸ hb) (by omega) (by omega), ?_⟩
    rw [hread, hidx]
    exact alike_setTxEv (alike_bump (alike_txIdle (alike_beginStep h)) _) _

theorem runAlike_txAbort : RunAlike (execTxAbort s) (execTxAbort t) := by
  cases hb : s.txBusy with
  | true =>
    rw [execTxAbort_busy hb, execTxAbort_busy (h.txBusy ▸ hb)]
    exact runAlike_next (alike_setTxEv (alike_bump (alike_txIdle (alike_beginStep h)) _) _)
  | false =>
    rw [execTxAbort_idle hb, execTxAbort_idle (h.txBusy ▸ hb)]
    exact runAlike_next (alike_beginStep h)

/-- R220: `RESET` writes constants and parameters. -/
theorem runAlike_reset : RunAlike (execReset s) (execReset t) := by
  obtain ⟨⟨hc, he, hi, -, -⟩, -⟩ := alike_txIdle (alike_toIdle (alike_beginStep h))
  obtain ⟨-, hrx, htx, -⟩ := alike_txIdle (alike_toIdle (alike_beginStep h))
  have hc' : s.cfg = t.cfg := hc
  refine runAlike_next ⟨⟨hc, he, hi, rfl, rfl⟩, hrx, htx, fun a _ => ?_, rfl⟩
  rw [hc']

theorem runAlike_forceRefreshClr : RunAlike (execForceRefreshClr s) (execForceRefreshClr t) := by
  obtain ⟨hshared, hrx, htx, hcity, -⟩ := alike_beginStep h
  exact runAlike_next ⟨hshared, hrx, htx, hcity, rfl⟩

theorem runAlike_event (hs : s.Inv) (e : Event) : RunAlike (exec e.instr s) (exec e.instr t) := by
  cases e with
  | rxByte b => exact runAlike_rxByte h hs b
  | rxTick => exact runAlike_rxTick h
  | txReq cmd p => exact runAlike_txReq h cmd p
  | txPop => exact runAlike_txPop h
  | txAbort => exact runAlike_txAbort h
  | reset => exact runAlike_reset h
  | forceRefreshClr => exact runAlike_forceRefreshClr h

theorem sameArch_deliver (i : Input) (rest : List Input) : (s.deliver i rest).SameArch (t.deliver i rest) := by
  obtain ⟨hc, -, -, hf, hn, hv, hx, ha, hst, hb, hN, hidx, hbuf, hcity, hr, hk⟩ := h
  exact ⟨hc, rfl, rfl, hf, hn, hv, hx, ha, hst, hb, hN, hidx, hbuf, hcity, hr, hk⟩

end events

/-- Settles O46: the two states take the same event, if there is one, and every event runs alike. -/
theorem nonArchitecturalContentsAreUnobservable : Obligations.NonArchitecturalContentsAreUnobservable := by
  intro s t s' hs ht h hstep
  obtain ⟨-, ⟨hi, rfl⟩ | ⟨i, rest, hi, he⟩⟩ := step_next hstep
  · have hidle : step t = .next t.beginStep := by simp [step, ht.cfg, ← h.inputs, hi]
    exact ⟨_, hidle, alike_iff.mp (alike_beginStep h)⟩
  · obtain ⟨t', ht', halike⟩ := runAlike_event (sameArch_deliver h i rest) (inv_deliver hs) i.event s' he
    exact ⟨t', (step_of_input ht.cfg (h.inputs.symm.trans hi)).trans ht', alike_iff.mp halike⟩

end Sys2Proof.Machine
end

section
/-! What a frame row leaves as it is (20 section 1, 43), and why no reply is answered (R235). -/

namespace Sys2Proof.Machine

open Sys2Proof.Spec

theorem sameCity_refl (s : State) : SameCity s s := ⟨rfl, fun _ => rfl⟩

/-- The two rows that reply, and what they reply (R153, R161). -/
def RepliesWith (i : Instr) (s : State) (cmd : Byte) (q : List Byte) : Prop :=
  ((∃ p, i = .getWeather p) ∧ cmd = s.cfg.cmdAck ∧ q = []) ∨
    (i = .systemStatusReq ∧ cmd = s.cfg.cmdSystemStatus ∧ q = record s.cfg s.env)

/-- Everything a frame row can do: only route, drop, store a city, or route and reply. -/
theorem frameRow_next {i : Instr} {s t : State} (hi : i.isFrame = true) (h : exec i s = .next t) :
    (∃ r c p, t = routeTo r c p s) ∨ (∃ k c p, t = drop k c p s) ∨
      (∃ p, i = .setCity p ∧ p.length ≤ 31 ∧
        t = routeTo .citySet s.cfg.cmdSetCity p
          { s with activeCity := s.activeCity.writeBytes 0 (cityPad p), forceRefresh := true }) ∨
      ∃ r c p cmd q, RepliesWith i s cmd q ∧ submitReply cmd q (routeTo r c p s) = .next t := by
  have route : ∀ {r c p}, Host.Outcome.next (routeTo r c p s) = (.next t : Host.Outcome State Fault Refusal) →
      ∃ r c p, t = routeTo r c p s := fun h => ⟨_, _, _, (Host.Outcome.next.inj h).symm⟩
  have dropped : ∀ {k c p}, Host.Outcome.next (drop k c p s) = (.next t : Host.Outcome State Fault Refusal) →
      ∃ k c p, t = drop k c p s := fun h => ⟨_, _, _, (Host.Outcome.next.inj h).symm⟩
  cases i with
  | getWeather p =>
    cases hr : s.cfg.role with
    | connectivity =>
      exact .inr (.inr (.inr ⟨_, _, p, _, _, .inl ⟨⟨p, rfl⟩, rfl, rfl⟩, (execGetWeather_connectivity hr).symm.trans h⟩))
    | display => exact .inl (route ((execGetWeather_display hr).symm.trans h))
  | getTime p => exact .inr (.inl (dropped h))
  | setTime p => exact .inr (.inl (dropped h))
  | setCity p =>
    cases hr : s.cfg.role with
    | display => exact .inr (.inl (dropped ((execSetCity_display hr).symm.trans h)))
    | connectivity =>
      rcases Nat.lt_or_ge 31 p.length with hp | hp
      · exact .inr (.inl (dropped ((execSetCity_tooLong hr hp).symm.trans h)))
      · exact .inr (.inr (.inl ⟨p, rfl, hp, (Host.Outcome.next.inj ((execSetCity_stored hr hp).symm.trans h)).symm⟩))
  | getForecast p => exact .inr (.inl (dropped h))
  | systemStatusReq =>
    exact .inr (.inr (.inr ⟨_, _, [], _, _, .inr ⟨rfl, rfl, rfl⟩, (execSystemStatusReq_eq s).symm.trans h⟩))
  | systemStatusReport p => exact .inl (route h)
  | ack p => exact .inl (route h)
  | nack p => exact .inl (route h)
  | error p => exact .inl (route h)
  | unknownCommand cmd p => exact .inr (.inl (dropped h))
  | rxByte | rxTick | txReq | txPop | txAbort | forceRefreshClr | reset | xor8 | encode => cases hi

/-- R132: a loaded image leaves every later byte of the buffer. -/
theorem read_loaded_beyond {cmd : Byte} {p : List Byte} {s : State} {a : Nat} (ha : 4 + p.length ≤ a) :
    (loaded cmd p s).txBuf.read a = s.txBuf.read a := by
  rw [loaded, Memory.read_writeBytes, if_neg]
  rw [length_frameImage]
  omega

/-- What every frame row leaves, whatever it does to the city register or to the serializer. -/
def RowKeeps (s t : State) : Prop :=
  SameInputs s t ∧ SameReceiver s t ∧ SameRxCounters s t ∧ t.cnt.txFrames = s.cnt.txFrames ∧
    t.cnt.txBadLen = s.cnt.txBadLen ∧ t.cnt.txAbort = s.cnt.txAbort ∧ t.out.rxEv = s.out.rxEv ∧
    t.out.txEv = s.out.txEv ∧ t.out.fn = s.out.fn

theorem rowKeeps_routeTo (r : Route) (c : Byte) (p : List Byte) (s : State) : RowKeeps s (routeTo r c p s) :=
  ⟨⟨rfl, rfl, rfl⟩, sameReceiver_refl s, ⟨rfl, rfl, rfl, rfl, rfl⟩, rfl, rfl, rfl, rfl, rfl, rfl⟩

theorem rowKeeps_drop (k : DropCause) (c : Byte) (p : List Byte) (s : State) : RowKeeps s (drop k c p s) := by
  cases k <;> exact rowKeeps_routeTo _ c p s

theorem rowKeeps_frameRow {i : Instr} {s t : State} (hi : i.isFrame = true) (h : exec i s = .next t) : RowKeeps s t := by
  rcases frameRow_next hi h with ⟨r, c, p, rfl⟩ | ⟨k, c, p, rfl⟩ | ⟨p, -, -, rfl⟩ | ⟨r, c, p, cmd, q, -, hsub⟩
  · exact rowKeeps_routeTo r c p s
  · exact rowKeeps_drop k c p s
  · exact rowKeeps_routeTo .citySet s.cfg.cmdSetCity p s
  · rcases submitReply_next hsub with ⟨-, rfl⟩ | ⟨-, -, rfl⟩ <;> exact rowKeeps_routeTo r c p s

/-- Which frame rows write the city register and the serializer, and where. -/
def RowWrites (i : Instr) (s t : State) : Prop :=
  ((∀ p, i ≠ .setCity p) → SameCity s t) ∧ (∀ a, 32 ≤ a → t.activeCity.read a = s.activeCity.read a) ∧
    ((∀ p, i ≠ .getWeather p) → i ≠ .systemStatusReq → SameSerializer s t ∧ t.cnt.txSkip = s.cnt.txSkip) ∧
    (s.txBusy = true → SameSerializer s t) ∧
    (∀ p, i = .getWeather p → ∀ a, 4 ≤ a → t.txBuf.read a = s.txBuf.read a) ∧
    (i = .systemStatusReq → ∀ a, 12 ≤ a → t.txBuf.read a = s.txBuf.read a)

/-- A row that leaves the serializer. -/
theorem rowWrites_of_sameSerializer {i : Instr} {s t : State} (hcity : (∀ p, i ≠ .setCity p) → SameCity s t)
    (hbeyond : ∀ a, 32 ≤ a → t.activeCity.read a = s.activeCity.read a) (hser : SameSerializer s t)
    (hskip : (∀ p, i ≠ .getWeather p) → i ≠ .systemStatusReq → t.cnt.txSkip = s.cnt.txSkip) : RowWrites i s t := by
  have hbuf := hser.2.2.2
  exact ⟨hcity, hbeyond, fun hw hr => ⟨hser, hskip hw hr⟩, fun _ => hser, fun _ _ a _ => hbuf a, fun _ a _ => hbuf a⟩

/-- A row that loads a reply writes its image only. -/
theorem rowWrites_loaded {i : Instr} {s t : State} {cmd : Byte} {q : List Byte} (hw : RepliesWith i s cmd q)
    (hb : s.txBusy = false) (hcity : SameCity s t) (hbuf : ∀ a, 4 + q.length ≤ a → t.txBuf.read a = s.txBuf.read a) :
    RowWrites i s t := by
  refine ⟨fun _ => hcity, fun a _ => hcity.2 a, fun hnw hnr => ?_,
      fun hbusy => absurd (hb.symm.trans hbusy) Bool.false_ne_true,
    fun p hp a ha => ?_, fun hr a ha => ?_⟩
  · rcases hw with ⟨⟨p, rfl⟩, -⟩ | ⟨rfl, -⟩
    · exact absurd rfl (hnw p)
    · exact absurd rfl hnr
  · rcases hw with ⟨-, -, rfl⟩ | ⟨rfl, -, -⟩
    · exact hbuf a ha
    · cases hp
  · rcases hw with ⟨⟨p, rfl⟩, -, -⟩ | ⟨-, -, rfl⟩
    · cases hr
    · exact hbuf a ha

theorem rowWrites_frameRow {i : Instr} {s t : State} (hi : i.isFrame = true) (h : exec i s = .next t) : RowWrites i s t := by
  rcases frameRow_next hi h with ⟨r, c, p, rfl⟩ | ⟨k, c, p, rfl⟩ | ⟨p, rfl, hp, rfl⟩ | ⟨r, c, p, cmd, q, hw, hsub⟩
  · exact rowWrites_of_sameSerializer (fun _ => sameCity_refl s) (fun _ _ => rfl) (sameSerializer_refl s) fun _ _ => rfl
  · exact rowWrites_of_sameSerializer (fun _ => sameCity_refl s) (fun _ _ => rfl) (sameSerializer_refl s) fun _ _ => by
      cases k <;> rfl
  · refine rowWrites_of_sameSerializer (fun hn => absurd rfl (hn p)) (fun a ha => ?_) (sameSerializer_refl s) fun _ _ => rfl
    exact (Memory.read_writeBytes ..).trans (if_neg (by rw [cityPad_length hp]; omega))
  · rcases submitReply_next hsub with ⟨-, rfl⟩ | ⟨hb, -, rfl⟩
    · refine rowWrites_of_sameSerializer (fun _ => sameCity_refl s) (fun _ _ => rfl) (sameSerializer_refl s) fun hnw hnr => ?_
      rcases hw with ⟨⟨p, rfl⟩, -⟩ | ⟨rfl, -⟩
      · exact absurd rfl (hnw p)
      · exact absurd rfl hnr
    · exact rowWrites_loaded hw hb (sameCity_refl s) fun a ha => read_loaded_beyond (s := routeTo r c p s) ha

/-- Settles O58. -/
theorem frameOfDispatchedFrames : Obligations.FrameOfDispatchedFrames := by
  intro i s t hi h
  obtain ⟨hin, hrx, hcnt, hframes, hbadlen, habort, hrxev, htxev, hfn⟩ := rowKeeps_frameRow hi h
  exact ⟨hin, hrx, hcnt, hframes, hbadlen, habort, hrxev, htxev, hfn, rowWrites_frameRow hi h⟩

theorem repliesWith_of_submitted {i : Instr} {s t : State} {cmd : Byte} {p : List Byte} (hi : i.isFrame = true)
    (h : exec i s = .next t) (hreply : t.out.reply = some (.submitted cmd p)) : RepliesWith i s cmd p := by
  rcases frameRow_next hi h with ⟨r, c, p, rfl⟩ | ⟨k, c, p, rfl⟩ | ⟨p, -, -, rfl⟩ | ⟨r, c, p, cmd', q, hw, hsub⟩
  · cases hreply
  · cases hreply
  · cases hreply
  · rcases submitReply_next hsub with ⟨-, rfl⟩ | ⟨-, -, rfl⟩
    · cases hreply
    · obtain ⟨rfl, rfl⟩ := ReplyOut.submitted.inj (Option.some.inj hreply)
      exact hw

theorem cmdAck_of_ids {c c' : Cfg} (h : c.ids = c'.ids) : c.cmdAck = c'.cmdAck := by
  simp only [Cfg.ids, List.cons.injEq] at h
  obtain ⟨-, -, -, -, -, -, hack, -⟩ := h
  exact hack

/-- Settles O38: a reply is an ack or a status report, and both are only routed. -/
theorem repliesAreNotAnswered : Obligations.RepliesAreNotAnswered := by
  intro s t u i cmd p hi h hreply hw hids
  rcases repliesWith_of_submitted hi h hreply with ⟨-, rfl, rfl⟩ | ⟨-, rfl, rfl⟩
  · rw [← cmdAck_of_ids hids, selectRow_cmdAck hw]
    exact ⟨_, rfl, rfl⟩
  · rw [← cmdSystemStatus_of_ids hids, selectRow_cmdSystemStatus hw, if_neg (by rw [length_record]; decide)]
    exact ⟨_, rfl, rfl⟩

end Sys2Proof.Machine
end

section
/-! What a receive event leaves as it is (R41, R54): the serializer unless a reply is submitted, and every cell but one. -/

namespace Sys2Proof.Machine

open Sys2Proof.Spec

/-- The serializer's registers are the same data in both states. -/
def KeepsSerializer (s t : State) : Prop :=
  t.txBusy = s.txBusy ∧ t.txBuf = s.txBuf ∧ t.txN = s.txN ∧ t.txIdx = s.txIdx

/-- R168: an idle serializer has been given this frame. -/
def LoadsReply (cmd : Byte) (p : List Byte) (s t : State) : Prop :=
  s.txBusy = false ∧ t.txBusy = true ∧ t.txBuf = s.txBuf.writeBytes 0 (wire s.cfg cmd p) ∧ t.txN = p.length + 4 ∧ t.txIdx = 0

theorem sameSerializer_of_keeps {s t : State} (h : KeepsSerializer s t) : SameSerializer s t := by
  obtain ⟨hb, hbuf, hn, hi⟩ := h
  exact ⟨hb, hn, hi, fun a => by rw [hbuf]⟩

theorem not_submits_of_none {o : Out} (h : o.reply = none) : ¬ Submits o := by
  rintro ⟨cmd, p, hs⟩
  rw [h] at hs
  cases hs

/-- R139, R168, R169: what a receive event does to the serializer. -/
def ReachesSerializer (s t : State) : Prop :=
  (KeepsSerializer s t ∧ ¬ Submits t.out) ∨
    ∃ cmd p, LoadsReply cmd p s t ∧ t.out.reply = some (.submitted cmd p)

theorem reachesSerializer_acceptFrame {f : Frame} {s t : State} (h : acceptFrame f s = .next t) :
    ReachesSerializer s t := by
  rcases dispatch_serializer h with ⟨hb, hbuf, hn, hi, hreply⟩ | ⟨hb, cmd, p, -, hreply, hb', hbuf, hn, hi, -⟩
  · exact .inl ⟨⟨hb, hbuf, hn, hi⟩, fun ⟨cmd, p, hs⟩ => hreply cmd p hs⟩
  · exact .inr ⟨cmd, p, ⟨hb, hb', hbuf, hn, hi⟩, hreply⟩

theorem reachesSerializer_rxByte {b : Byte} {s t : State} (h : execRxByte b s = .next t) : ReachesSerializer s t := by
  have keep : ∀ {u : State}, KeepsSerializer s u → u.out.reply = none → ReachesSerializer s u := fun hk hr =>
    .inl ⟨hk, not_submits_of_none hr⟩
  rcases execRxByte_shape h with ⟨-, -, rfl⟩ | ⟨-, -, rfl⟩ | ⟨-, -, exp, valid, -, rfl | rfl | rfl | ⟨f, -, -, ha⟩⟩
  · exact keep ⟨rfl, rfl, rfl, rfl⟩ rfl
  · exact keep ⟨rfl, rfl, rfl, rfl⟩ rfl
  · exact keep ⟨rfl, rfl, rfl, rfl⟩ rfl
  · exact keep ⟨rfl, rfl, rfl, rfl⟩ rfl
  · exact keep ⟨rfl, rfl, rfl, rfl⟩ rfl
  · exact reachesSerializer_acceptFrame (s := latched b exp valid s) ha

/-- A tick reaches the decoder only. -/
theorem execRxTick_keeps {s t : State} (h : execRxTick s = .next t) :
    SameInputs s t ∧ t.activeCity = s.activeCity ∧ t.forceRefresh = s.forceRefresh ∧ KeepsSerializer s t ∧
      t.rxExp = s.rxExp ∧ t.rxAcc = s.rxAcc ∧ t.cnt = { s.cnt with rxTimeout := t.cnt.rxTimeout } ∧
      t.out.route = none ∧ t.out.reply = none ∧ t.out.txEv = none := by
  rcases execRxTick_next h with ⟨-, rfl⟩ | ⟨-, -, rfl⟩ | ⟨-, -, rfl⟩ <;>
    exact ⟨⟨rfl, rfl, rfl⟩, rfl, rfl, ⟨rfl, rfl, rfl, rfl⟩, rfl, rfl, rfl, rfl, rfl, rfl⟩

theorem reachesSerializer_event {i : Instr} {s t : State} (hi : IsReceive i) (h : exec i s = .next t) :
    ReachesSerializer s t := by
  rcases hi with ⟨b, rfl⟩ | rfl
  · exact reachesSerializer_rxByte h
  · obtain ⟨-, -, -, hser, -, -, -, -, hreply, -⟩ := execRxTick_keeps h
    exact .inl ⟨hser, not_submits_of_none hreply⟩

/-- Settles O50: a reply that is submitted is an image loaded from offset 0. -/
theorem receiveEventsReachTheSerializerByReply : Obligations.ReceiveEventsReachTheSerializerByReply := by
  intro i s t hi h
  rcases reachesSerializer_event hi h with ⟨hkeep, hno⟩ | ⟨cmd, p, ⟨hb, hb', hbuf, hn, hi⟩, hreply⟩
  · exact ⟨fun _ => sameSerializer_of_keeps hkeep, fun cmd p hs => absurd ⟨cmd, p, hs⟩ hno⟩
  · refine ⟨fun hno => absurd ⟨cmd, p, hreply⟩ hno, fun cmd' p' hs => ?_⟩
    obtain ⟨rfl, rfl⟩ := ReplyOut.submitted.inj (Option.some.inj (hreply.symm.trans hs))
    refine ⟨hb, hb', hi, hn.trans (Nat.add_comm ..), ?_, fun a ha => ?_⟩
    · rw [hbuf, ← length_wire s.cfg cmd p]
      exact Memory.readBytes_writeBytes_same s.txBuf 0 _
    · rw [hbuf, Memory.read_writeBytes, if_neg]
      rw [length_wire]
      omega

/-! The frame of `RX_BYTE`. -/

/-- What every `RX_BYTE` leaves. -/
def ByteKeeps (s t : State) : Prop :=
  SameInputs s t ∧ t.cnt.rxTimeout = s.cnt.rxTimeout ∧ t.cnt.txFrames = s.cnt.txFrames ∧
    t.cnt.txBadLen = s.cnt.txBadLen ∧ t.cnt.txAbort = s.cnt.txAbort ∧ t.out.txEv = none

/-- What every `RX_BYTE` leaves that accepts no frame. -/
def ByteLeavesDispatch (s t : State) : Prop :=
  SameCity s t ∧ SameSerializer s t ∧ SameDspCounters s t ∧ t.cnt.txSkip = s.cnt.txSkip

theorem byteKeeps_rxByte {b : Byte} {s t : State} (h : execRxByte b s = .next t) : ByteKeeps s t := by
  rcases execRxByte_shape h with ⟨-, -, rfl⟩ | ⟨-, -, rfl⟩ | ⟨-, -, exp, valid, -, rfl | rfl | rfl | ⟨f, -, -, ha⟩⟩
  on_goal 6 =>
    obtain ⟨hin, -, ⟨-, -, -, -, htimeout⟩, ⟨hframes, hbadlen, habort⟩, ⟨-, htxev, -⟩, -⟩ := acceptFrame_keeps ha
    exact ⟨hin, htimeout, hframes, hbadlen, habort, htxev⟩
  all_goals exact ⟨⟨rfl, rfl, rfl⟩, rfl, rfl, rfl, rfl, rfl⟩

theorem byteLeavesDispatch_rxByte {b : Byte} {s t : State} (h : execRxByte b s = .next t) (hno : ¬ Accepts t.out) :
    ByteLeavesDispatch s t := by
  rcases execRxByte_shape h with ⟨-, -, rfl⟩ | ⟨-, -, rfl⟩ | ⟨-, -, exp, valid, -, rfl | rfl | rfl | ⟨f, -, -, ha⟩⟩
  on_goal 6 =>
    obtain ⟨-, -, -, -, ⟨hrx, -, -⟩, -⟩ := acceptFrame_keeps ha
    exact absurd ⟨f, hrx⟩ hno
  all_goals exact ⟨sameCity_refl s, sameSerializer_refl s, ⟨rfl, rfl, rfl⟩, rfl⟩

/-- R103: collecting, a byte is stored at `rx_n`, whatever becomes of the frame. -/
theorem rxAcc_of_collecting {b : Byte} {s t : State} (hf : s.rxFsm = .accumulating) (h : execRxByte b s = .next t) :
    t.rxAcc = s.rxAcc.write s.rxN b := by
  rcases execRxByte_shape h with ⟨hf', -⟩ | ⟨hf', -⟩ | ⟨-, -, exp, valid, -, rfl | rfl | rfl | ⟨f, -, -, ha⟩⟩
  · cases hf'.symm.trans hf
  · cases hf'.symm.trans hf
  · rfl
  · rfl
  · rfl
  · obtain ⟨-, ⟨-, -, -, -, hacc, -⟩, -⟩ := acceptFrame_keeps ha
    exact hacc

/-- Settles O59. -/
theorem frameOfReceiveEvents : Obligations.FrameOfReceiveEvents := by
  refine ⟨fun b s t h => ?_, fun s t h => ?_⟩
  · obtain ⟨hin, hcounts⟩ := byteKeeps_rxByte h
    refine ⟨hin, fun hf hb a ha => ?_, fun hf hb => ?_, fun hf a ha => ?_, byteLeavesDispatch_rxByte h, hcounts⟩
    · obtain rfl := Host.Outcome.next.inj ((execRxByte_start hf hb).symm.trans h)
      exact Memory.read_write_other _ b ha
    · obtain rfl := Host.Outcome.next.inj ((execRxByte_stray hf hb).symm.trans h)
      exact sameReceiver_refl s
    · rw [rxAcc_of_collecting hf h]
      exact Memory.read_write_other _ b ha
  · obtain ⟨hin, hcity, hflag, hser, hexp, hacc, hcnt, hout⟩ := execRxTick_keeps h
    refine ⟨hin, ⟨hflag, fun a => by rw [hcity]⟩, sameSerializer_of_keeps hser, ?_, hexp, fun a => by rw [hacc], hcnt, hout⟩
    rw [SameDspCounters, hcnt]
    exact ⟨rfl, rfl, rfl⟩

end Sys2Proof.Machine
end

section
/-! The frame of the transmit and host events, and what no event writes: the parameters and the later deliveries. -/

namespace Sys2Proof.Machine

open Sys2Proof.Spec

theorem frameOfTxReq {cmd : Byte} {p : List Byte} {s t : State} (h : execTxReq cmd p s = .next t) :
    (∀ a, 4 + p.length ≤ a → t.txBuf.read a = s.txBuf.read a) ∧ (t.out.txEv ≠ some .taken → SameSerializer s t) ∧
      t.cnt = { s.cnt with txSkip := t.cnt.txSkip, txBadLen := t.cnt.txBadLen } := by
  rcases execTxReq_next h with ⟨-, rfl⟩ | ⟨-, -, rfl⟩ | ⟨-, -, rfl⟩
  · exact ⟨fun _ _ => rfl, fun _ => sameSerializer_refl s, rfl⟩
  · exact ⟨fun _ _ => rfl, fun _ => sameSerializer_refl s, rfl⟩
  · exact ⟨fun a ha => read_loaded_beyond (s := s.beginStep) ha, fun hno => absurd rfl hno, rfl⟩

theorem frameOfTxPop {s t : State} (h : execTxPop s = .next t) :
    t.txBuf = s.txBuf ∧ t.txN = s.txN ∧ t.cnt = { s.cnt with txFrames := t.cnt.txFrames } := by
  rcases execTxPop_next h with ⟨-, rfl⟩ | ⟨-, -, -, rfl⟩ | ⟨-, -, -, rfl⟩ <;> exact ⟨rfl, rfl, rfl⟩

theorem frameOfTxAbort {s t : State} (h : execTxAbort s = .next t) :
    t.txBuf = s.txBuf ∧ t.txN = s.txN ∧ t.txIdx = s.txIdx ∧ t.cnt = { s.cnt with txAbort := t.cnt.txAbort } := by
  rcases execTxAbort_next h with ⟨-, rfl⟩ | ⟨-, rfl⟩ <;> exact ⟨rfl, rfl, rfl, rfl⟩

/-- Settles O60. -/
theorem frameOfTransmitAndHostEvents : Obligations.FrameOfTransmitAndHostEvents := by
  refine ⟨fun cmd p s t => frameOfTxReq, fun s t h => ?_, fun s t h => ?_, fun s t h => ?_, fun s t h => ?_⟩
  · obtain ⟨hbuf, hrest⟩ := frameOfTxPop h
    exact ⟨fun a => by rw [hbuf], hrest⟩
  · obtain ⟨hbuf, hrest⟩ := frameOfTxAbort h
    exact ⟨fun a => by rw [hbuf], hrest⟩
  · obtain rfl := Host.Outcome.next.inj h
    exact ⟨⟨rfl, rfl, rfl⟩, sameReceiver_refl s, sameSerializer_refl s, rfl, fun _ => rfl⟩
  · obtain rfl := Host.Outcome.next.inj h
    exact ⟨fun _ => rfl, fun _ => rfl, rfl, rfl, rfl⟩

theorem sameInputs_event {e : Event} {s t : State} (h : exec e.instr s = .next t) : SameInputs s t := by
  have transmit : IsTransmit e.instr → SameInputs s t := fun hi => (transmitEventsLeaveTheReceiver _ s t hi h).2.2.1
  cases e with
  | rxByte b => exact (byteKeeps_rxByte h).1
  | rxTick => exact (execRxTick_keeps h).1
  | txReq cmd p => exact transmit (.inl ⟨cmd, p, rfl⟩)
  | txPop => exact transmit (.inr (.inl rfl))
  | txAbort => exact transmit (.inr (.inr rfl))
  | reset | forceRefreshClr =>
    obtain rfl := Host.Outcome.next.inj h
    exact ⟨rfl, rfl, rfl⟩

/-- Settles O48: the delivery takes the first pending event, and no event's meaning writes the list or `cfg`. -/
theorem configurationIsConstant : Obligations.ConfigurationIsConstant := by
  intro s t h
  obtain ⟨-, ⟨hi, rfl⟩ | ⟨i, rest, hi, he⟩⟩ := step_next h
  · exact ⟨rfl, by rw [hi]; exact hi⟩
  · obtain ⟨hcfg, -, hin⟩ := sameInputs_event he
    exact ⟨hcfg, by rw [hi]; exact hin⟩

end Sys2Proof.Machine
end

section
/-! The transitions of the decoder and the serializer and the reports that go with them (R120), and the keeping of a
pending frame (R140). -/

namespace Sys2Proof.Machine

open Sys2Proof.Spec

/-- R120, the decoder's half. -/
def DecoderMoves (e : Event) (s t : State) : Prop :=
  (s.rxFsm = .idle ∧ t.rxFsm = .accumulating ↔ t.out.rxEv = some .started) ∧
    (s.rxFsm = .accumulating ∧ t.rxFsm = .idle ↔
      Accepts t.out ∨ Discards t.out ∨ (e = .reset ∧ s.rxFsm = .accumulating)) ∧
    (s.rxFsm = .accumulating → t.rxFsm = .idle → t.rxN = 0 ∧ t.rxExpValid = false ∧ t.rxStall = 0)

/-- A receive report of neither a start nor an end of a frame. -/
def QuietRx (o : Out) : Prop := o.rxEv ≠ some .started ∧ ¬ Accepts o ∧ ¬ Discards o

theorem quietRx_of_none {o : Out} (h : o.rxEv = none) : QuietRx o := by simp [QuietRx, Accepts, Discards, h]

theorem decoderMoves_of_stay {e : Event} {s t : State} (he : e ≠ .reset) (hf : t.rxFsm = s.rxFsm) (hq : QuietRx t.out) :
    DecoderMoves e s t := by
  obtain ⟨hstart, hacc, hdis⟩ := hq
  have hno : ∀ {f f' : RxFsm}, f ≠ f' → ¬ (s.rxFsm = f ∧ t.rxFsm = f') := fun hne ⟨h, h'⟩ =>
    hne (h.symm.trans (hf.symm.trans h'))
  exact ⟨iff_of_false (hno (by decide)) hstart, iff_of_false (hno (by decide)) (by simp [hacc, hdis, he]),
    fun h h' => absurd ⟨h, h'⟩ (hno (by decide))⟩

theorem decoderMoves_of_start {e : Event} {s t : State} (hs : s.rxFsm = .idle)
    (ht : t.rxFsm = .accumulating) (hev : t.out.rxEv = some .started) : DecoderMoves e s t :=
  ⟨iff_of_true ⟨hs, ht⟩ hev, by simp [hs, Accepts, Discards, hev], by simp [hs]⟩

theorem decoderMoves_of_end {e : Event} {s t : State} (hs : s.rxFsm = .accumulating) (ht : t.rxFsm = .idle)
    (hregs : t.rxN = 0 ∧ t.rxExpValid = false ∧ t.rxStall = 0) (hstart : t.out.rxEv ≠ some .started)
    (hev : Accepts t.out ∨ Discards t.out) : DecoderMoves e s t :=
  ⟨iff_of_false (by simp [hs]) hstart, iff_of_true ⟨hs, ht⟩ (hev.imp_right .inl), fun _ _ => hregs⟩

theorem decoderMoves_rxByte {b : Byte} {s t : State} (h : execRxByte b s = .next t) : DecoderMoves (.rxByte b) s t := by
  have he : Event.rxByte b ≠ .reset := by simp
  rcases execRxByte_shape h with ⟨hf, -, rfl⟩ | ⟨-, -, rfl⟩ | ⟨hf, -, exp, valid, -, rfl | rfl | rfl | ⟨f, -, -, ha⟩⟩
  · exact decoderMoves_of_start hf rfl rfl
  · exact decoderMoves_of_stay he rfl (by simp [QuietRx, Accepts, Discards, strayByte])
  · exact decoderMoves_of_end hf rfl ⟨rfl, rfl, rfl⟩ (by simp [discardFrame]) (.inr ⟨_, rfl⟩)
  · exact decoderMoves_of_stay he rfl (by simp [QuietRx, Accepts, Discards])
  · exact decoderMoves_of_end hf rfl ⟨rfl, rfl, rfl⟩ (by simp [discardFrame]) (.inr ⟨_, rfl⟩)
  · obtain ⟨-, ⟨hidle, hn, hv, -, -, hst⟩, -, -, ⟨hrx, -, -⟩, -⟩ := acceptFrame_keeps ha
    exact decoderMoves_of_end hf hidle ⟨hn, hv, hst⟩ (by simp [hrx]) (.inl ⟨f, hrx⟩)

theorem decoderMoves_rxTick {s t : State} (h : execRxTick s = .next t) : DecoderMoves .rxTick s t := by
  rcases execRxTick_next h with ⟨-, rfl⟩ | ⟨hf, -, rfl⟩ | ⟨-, -, rfl⟩
  · exact decoderMoves_of_stay (by simp) rfl (quietRx_of_none rfl)
  · exact decoderMoves_of_end hf rfl ⟨rfl, rfl, rfl⟩ (by simp [discardFrame]) (.inr ⟨_, rfl⟩)
  · exact decoderMoves_of_stay (by simp) rfl (quietRx_of_none rfl)

theorem decoderMoves_event {e : Event} {s t : State} (h : exec e.instr s = .next t) : DecoderMoves e s t := by
  have transmit : e ≠ .reset → IsTransmit e.instr → DecoderMoves e s t := fun he hi => by
    obtain ⟨⟨hf, -⟩, -, -, -, -, hrx, -⟩ := transmitEventsLeaveTheReceiver _ s t hi h
    exact decoderMoves_of_stay he hf (quietRx_of_none hrx)
  cases e with
  | rxByte b => exact decoderMoves_rxByte h
  | rxTick => exact decoderMoves_rxTick h
  | txReq cmd p => exact transmit (by simp) (.inl ⟨cmd, p, rfl⟩)
  | txPop => exact transmit (by simp) (.inr (.inl rfl))
  | txAbort => exact transmit (by simp) (.inr (.inr rfl))
  | reset =>
    obtain rfl := Host.Outcome.next.inj h
    exact ⟨by simp [Out.silent], by simp [Accepts, Discards, Out.silent], fun _ _ => ⟨rfl, rfl, rfl⟩⟩
  | forceRefreshClr =>
    obtain rfl := Host.Outcome.next.inj h
    exact decoderMoves_of_stay (by simp) rfl (quietRx_of_none rfl)

/-- R120, the serializer's half. -/
def SerializerMoves (e : Event) (s t : State) : Prop :=
  (s.txBusy = false ∧ t.txBusy = true ↔ t.out.txEv = some .taken ∨ Submits t.out) ∧
    (s.txBusy = true ∧ t.txBusy = false ↔
      (∃ b, t.out.txEv = some (.byte b true)) ∨ t.out.txEv = some .aborted ∨ (e = .reset ∧ s.txBusy = true))

/-- A transmit report of neither a start nor an end of a frame. -/
def QuietTx (o : Out) : Prop :=
  o.txEv ≠ some .taken ∧ (∀ b, o.txEv ≠ some (.byte b true)) ∧ o.txEv ≠ some .aborted

theorem quietTx_of_none {o : Out} (h : o.txEv = none) : QuietTx o := by simp [QuietTx, h]

theorem serializerMoves_of_stay {e : Event} {s t : State} (he : e ≠ .reset) (hb : t.txBusy = s.txBusy)
    (hq : QuietTx t.out) (hno : ¬ Submits t.out) : SerializerMoves e s t := by
  obtain ⟨htaken, hlast, habort⟩ := hq
  refine ⟨iff_of_false ?_ (by simp [htaken, hno]), iff_of_false ?_ (by simp [hlast, habort, he])⟩
  · rintro ⟨h, h'⟩
    exact Bool.false_ne_true (h.symm.trans (hb.symm.trans h'))
  · rintro ⟨h, h'⟩
    exact Bool.false_ne_true (h'.symm.trans (hb.trans h))

theorem serializerMoves_of_load {e : Event} {s t : State} (hs : s.txBusy = false) (ht : t.txBusy = true)
    (hlast : ∀ b, t.out.txEv ≠ some (.byte b true)) (habort : t.out.txEv ≠ some .aborted)
    (hev : t.out.txEv = some .taken ∨ Submits t.out) : SerializerMoves e s t :=
  ⟨iff_of_true ⟨hs, ht⟩ hev, iff_of_false (by simp [hs]) (by simp [hs, hlast, habort])⟩

theorem serializerMoves_of_free {e : Event} {s t : State} (hs : s.txBusy = true) (ht : t.txBusy = false)
    (htaken : t.out.txEv ≠ some .taken) (hreply : t.out.reply = none)
    (hev : (∃ b, t.out.txEv = some (.byte b true)) ∨ t.out.txEv = some .aborted) : SerializerMoves e s t :=
  ⟨iff_of_false (by simp [hs]) (not_or.mpr ⟨htaken, not_submits_of_none hreply⟩),
    iff_of_true ⟨hs, ht⟩ (hev.imp_right .inl)⟩

theorem serializerMoves_of_reaches {e : Event} {s t : State} (he : e ≠ .reset) (h : ReachesSerializer s t)
    (hev : t.out.txEv = none) : SerializerMoves e s t := by
  rcases h with ⟨⟨hb, -⟩, hno⟩ | ⟨cmd, p, ⟨hb, hb', -⟩, hreply⟩
  · exact serializerMoves_of_stay he hb (quietTx_of_none hev) hno
  · exact serializerMoves_of_load hb hb' (by simp [hev]) (by simp [hev]) (.inr ⟨cmd, p, hreply⟩)

theorem serializerMoves_txReq {cmd : Byte} {p : List Byte} {s t : State} (h : execTxReq cmd p s = .next t) :
    SerializerMoves (.txReq cmd p) s t := by
  have he : Event.txReq cmd p ≠ .reset := by simp
  rcases execTxReq_next h with ⟨-, rfl⟩ | ⟨-, -, rfl⟩ | ⟨-, hb, rfl⟩
  · exact serializerMoves_of_stay he rfl (by simp [QuietTx, refuse]) (not_submits_of_none rfl)
  · exact serializerMoves_of_stay he rfl (by simp [QuietTx, refuse]) (not_submits_of_none rfl)
  · exact serializerMoves_of_load hb rfl (by simp) (by simp) (.inl rfl)

theorem serializerMoves_txPop {s t : State} (h : execTxPop s = .next t) : SerializerMoves .txPop s t := by
  rcases execTxPop_next h with ⟨-, rfl⟩ | ⟨-, -, -, rfl⟩ | ⟨hb, -, -, rfl⟩
  · exact serializerMoves_of_stay (by simp) rfl (by simp [QuietTx]) (not_submits_of_none rfl)
  · exact serializerMoves_of_stay (by simp) rfl (by simp [QuietTx]) (not_submits_of_none rfl)
  · exact serializerMoves_of_free hb rfl (by simp) rfl (.inl ⟨_, rfl⟩)

theorem serializerMoves_txAbort {s t : State} (h : execTxAbort s = .next t) : SerializerMoves .txAbort s t := by
  rcases execTxAbort_next h with ⟨hb, rfl⟩ | ⟨-, rfl⟩
  · exact serializerMoves_of_free hb rfl (by simp) rfl (.inr rfl)
  · exact serializerMoves_of_stay (by simp) rfl (quietTx_of_none rfl) (not_submits_of_none rfl)

theorem serializerMoves_event {e : Event} {s t : State} (h : exec e.instr s = .next t) : SerializerMoves e s t := by
  cases e with
  | rxByte b =>
    obtain ⟨-, -, -, -, -, htxev⟩ := byteKeeps_rxByte h
    exact serializerMoves_of_reaches (by simp) (reachesSerializer_rxByte h) htxev
  | rxTick =>
    obtain ⟨-, -, -, -, -, -, -, -, -, htxev⟩ := execRxTick_keeps h
    exact serializerMoves_of_reaches (by simp) (reachesSerializer_event (.inr rfl) h) htxev
  | txReq cmd p => exact serializerMoves_txReq h
  | txPop => exact serializerMoves_txPop h
  | txAbort => exact serializerMoves_txAbort h
  | reset =>
    obtain rfl := Host.Outcome.next.inj h
    exact ⟨by simp [Out.silent, Submits], by simp [Out.silent]⟩
  | forceRefreshClr =>
    obtain rfl := Host.Outcome.next.inj h
    exact serializerMoves_of_stay (by simp) rfl (quietTx_of_none rfl) (not_submits_of_none rfl)

/-- Settles O22, unit by unit. -/
theorem transitionsAreExactlyThese : Obligations.TransitionsAreExactlyThese := by
  intro s t i rest hi h
  have he : exec i.event.instr (s.deliver i rest) = .next t := by
    obtain ⟨hw, -⟩ := step_next h
    exact (step_of_input hw hi).symm.trans h
  obtain ⟨hstart, hend, hregs⟩ := decoderMoves_event he
  exact ⟨hstart, hend, hregs, serializerMoves_event (s := s.deliver i rest) he⟩

/-! A pending frame. -/

/-- R140 of one step: the frame is kept, no other is taken, and a byte handed over is the next one. -/
def KeepsPending (s t : State) : Prop :=
  t.txBuf = s.txBuf ∧ t.txN = s.txN ∧ t.out.txEv ≠ some .taken ∧ ¬ Submits t.out ∧
    (∀ b last, t.out.txEv = some (.byte b last) →
      b = s.txBuf.read s.txIdx ∧ t.txIdx = (if last then s.txIdx else s.txIdx + 1)) ∧
    ((∀ b last, t.out.txEv ≠ some (.byte b last)) → t.txIdx = s.txIdx)

/-- A step that hands no byte over. -/
theorem keepsPending_of_no_byte {s t : State} (hbuf : t.txBuf = s.txBuf) (hn : t.txN = s.txN) (hi : t.txIdx = s.txIdx)
    (htaken : t.out.txEv ≠ some .taken) (hno : ¬ Submits t.out) (hbyte : ∀ b last, t.out.txEv ≠ some (.byte b last)) :
    KeepsPending s t :=
  ⟨hbuf, hn, htaken, hno, fun b last h => absurd h (hbyte b last), fun _ => hi⟩

/-- A step that leaves the buffer and ends in silence. -/
theorem keepsPending_of_silent {s t : State} (hbuf : t.txBuf = s.txBuf) (hn : t.txN = s.txN) (hi : t.txIdx = s.txIdx)
    (ho : t.out = Out.silent) : KeepsPending s t :=
  keepsPending_of_no_byte hbuf hn hi (by simp [ho, Out.silent]) (not_submits_of_none (by rw [ho]; rfl))
    (by simp [ho, Out.silent])

theorem keepsPending_of_reaches {s t : State} (hb : s.txBusy = true) (h : ReachesSerializer s t)
    (hev : t.out.txEv = none) : KeepsPending s t := by
  rcases h with ⟨⟨-, hbuf, hn, hi⟩, hno⟩ | ⟨cmd, p, ⟨hb', -⟩, -⟩
  · exact keepsPending_of_no_byte hbuf hn hi (by simp [hev]) hno (by simp [hev])
  · cases hb'.symm.trans hb

theorem keepsPending_txReq {cmd : Byte} {p : List Byte} {s t : State} (hb : s.txBusy = true)
    (h : execTxReq cmd p s = .next t) : KeepsPending s t := by
  rcases execTxReq_next h with ⟨-, rfl⟩ | ⟨-, -, rfl⟩ | ⟨-, hb', -⟩
  · exact keepsPending_of_no_byte rfl rfl rfl (by simp [refuse]) (not_submits_of_none rfl) (by simp [refuse])
  · exact keepsPending_of_no_byte rfl rfl rfl (by simp [refuse]) (not_submits_of_none rfl) (by simp [refuse])
  · cases hb'.symm.trans hb

theorem keepsPending_txPop {s t : State} (hb : s.txBusy = true) (h : execTxPop s = .next t) : KeepsPending s t := by
  rcases execTxPop_next h with ⟨hb', -⟩ | ⟨-, -, -, rfl⟩ | ⟨-, -, -, rfl⟩
  · cases hb'.symm.trans hb
  · refine ⟨rfl, rfl, by simp, not_submits_of_none rfl, fun b last hev => ?_, fun hno => absurd rfl (hno _ _)⟩
    obtain ⟨rfl, rfl⟩ := TxEv.byte.inj (Option.some.inj hev)
    exact ⟨rfl, rfl⟩
  · refine ⟨rfl, rfl, by simp, not_submits_of_none rfl, fun b last hev => ?_, fun hno => absurd rfl (hno _ _)⟩
    obtain ⟨rfl, rfl⟩ := TxEv.byte.inj (Option.some.inj hev)
    exact ⟨rfl, rfl⟩

theorem keepsPending_txAbort {s t : State} (h : execTxAbort s = .next t) : KeepsPending s t := by
  rcases execTxAbort_next h with ⟨-, rfl⟩ | ⟨-, rfl⟩
  · exact keepsPending_of_no_byte rfl rfl rfl (by simp) (not_submits_of_none rfl) (by simp)
  · exact keepsPending_of_silent rfl rfl rfl rfl

theorem keepsPending_event {e : Event} {s t : State} (hb : s.txBusy = true) (h : exec e.instr s = .next t) :
    KeepsPending s t := by
  cases e with
  | rxByte b =>
    obtain ⟨-, -, -, -, -, htxev⟩ := byteKeeps_rxByte h
    exact keepsPending_of_reaches hb (reachesSerializer_rxByte h) htxev
  | rxTick =>
    obtain ⟨-, -, -, -, -, -, -, -, -, htxev⟩ := execRxTick_keeps h
    exact keepsPending_of_reaches hb (reachesSerializer_event (.inr rfl) h) htxev
  | txReq cmd p => exact keepsPending_txReq hb h
  | txPop => exact keepsPending_txPop hb h
  | txAbort => exact keepsPending_txAbort h
  | reset | forceRefreshClr =>
    obtain rfl := Host.Outcome.next.inj h
    exact keepsPending_of_silent rfl rfl rfl rfl

/-- Settles O28, by the event that is delivered, if one is. -/
theorem pendingFrameIsNotDisturbed : Obligations.PendingFrameIsNotDisturbed := by
  intro s t hb h
  obtain ⟨-, ⟨-, rfl⟩ | ⟨i, rest, -, he⟩⟩ := step_next h
  · exact keepsPending_of_silent rfl rfl rfl rfl
  · exact keepsPending_event (s := s.deliver i rest) hb he

end Sys2Proof.Machine
end

section
/-! Who writes the city register and the flag (R19, R20, R157), and what the accept counter counts (R206). -/

namespace Sys2Proof.Machine

open Sys2Proof.Spec

/-- The city register and the flag change in two cases only, and the set-city route does both. -/
def CityMoves (isReset : Prop) (s t : State) : Prop :=
  (t.activeCity ≠ s.activeCity ∨ (s.forceRefresh = false ∧ t.forceRefresh = true) →
      isReset ∨ ∃ cmd len p, t.out.route = some ⟨.citySet, cmd, len, p⟩) ∧
    ∀ cmd len p, t.out.route = some ⟨.citySet, cmd, len, p⟩ →
      s.cfg.role = .connectivity ∧ cmd = s.cfg.cmdSetCity ∧ p.length ≤ 31 ∧ t.forceRefresh = true ∧
        t.activeCity.readBytes 0 32 = p ++ List.replicate (32 - p.length) 0

theorem cityMoves_of_keep {isReset : Prop} {s t : State} (hcity : t.activeCity = s.activeCity)
    (hflag : t.forceRefresh = s.forceRefresh) (hroute : ∀ cmd len p, t.out.route ≠ some ⟨.citySet, cmd, len, p⟩) :
    CityMoves isReset s t := by
  refine ⟨fun h => ?_, fun cmd len p h => absurd h (hroute cmd len p)⟩
  rcases h with h | ⟨hs, ht⟩
  · exact absurd hcity h
  · exact absurd (hs.symm.trans (hflag.symm.trans ht)) Bool.false_ne_true

/-- R74: the whole register reads back as the padded string. -/
theorem readBytes_writeBytes_cityPad (m : Memory) {p : List Byte} (hp : p.length ≤ 31) :
    (m.writeBytes 0 (cityPad p)).readBytes 0 32 = p ++ List.replicate (32 - p.length) 0 := by
  have h := Memory.readBytes_writeBytes_same m 0 (cityPad p)
  rwa [cityPad_length hp] at h

theorem cityMoves_acceptFrame {isReset : Prop} {f : Frame} {s t : State} (h : acceptFrame f s = .next t) :
    CityMoves isReset s t := by
  rcases dispatch_city h with ⟨hcity, hflag, hroute⟩ | ⟨hr, hcmd, hp, hcity, hflag, -, hroute⟩
  · exact cityMoves_of_keep hcity hflag hroute
  · refine ⟨fun _ => .inr ⟨_, _, _, hroute⟩, fun cmd len p hroute' => ?_⟩
    obtain ⟨-, rfl, -, rfl⟩ := RouteOut.mk.inj (Option.some.inj (hroute.symm.trans hroute'))
    exact ⟨hr, hcmd, hp, hflag, by rw [hcity]; exact readBytes_writeBytes_cityPad _ hp⟩

theorem cityMoves_rxByte {isReset : Prop} {b : Byte} {s t : State} (h : execRxByte b s = .next t) :
    CityMoves isReset s t := by
  rcases execRxByte_shape h with ⟨-, -, rfl⟩ | ⟨-, -, rfl⟩ | ⟨-, -, exp, valid, -, rfl | rfl | rfl | ⟨f, -, -, ha⟩⟩
  on_goal 6 => exact cityMoves_acceptFrame (s := latched b exp valid s) ha
  all_goals exact cityMoves_of_keep rfl rfl fun _ _ _ hroute => nomatch hroute

theorem effect_transmit {i : Instr} {s t : State} (hi : IsTransmit i) (h : exec i s = .next t) :
    t.activeCity = s.activeCity ∧ t.forceRefresh = s.forceRefresh ∧ t.out.rxEv = none ∧ t.out.route = none := by
  obtain ⟨e, -, rfl⟩ := exists_transmitsAs hi h
  exact ⟨rfl, rfl, rfl, rfl⟩

theorem cityMoves_event {e : Event} {s t : State} (h : exec e.instr s = .next t) : CityMoves (e = .reset) s t := by
  have transmit : IsTransmit e.instr → CityMoves (e = .reset) s t := fun hi => by
    obtain ⟨hcity, hflag, -, hroute⟩ := effect_transmit hi h
    exact cityMoves_of_keep hcity hflag (by simp [hroute])
  cases e with
  | rxByte b => exact cityMoves_rxByte h
  | rxTick =>
    obtain ⟨-, hcity, hflag, -, -, -, -, hroute, -⟩ := execRxTick_keeps h
    exact cityMoves_of_keep hcity hflag (by simp [hroute])
  | txReq cmd p => exact transmit (.inl ⟨cmd, p, rfl⟩)
  | txPop => exact transmit (.inr (.inl rfl))
  | txAbort => exact transmit (.inr (.inr rfl))
  | reset =>
    obtain rfl := Host.Outcome.next.inj h
    exact ⟨fun _ => .inl rfl, fun _ _ _ hroute => nomatch hroute⟩
  | forceRefreshClr =>
    obtain rfl := Host.Outcome.next.inj h
    refine ⟨fun hmoved => ?_, fun _ _ _ hroute => nomatch hroute⟩
    rcases hmoved with hcity | ⟨-, hflag⟩
    · exact absurd rfl hcity
    · cases hflag

/-- Settles O52, by the event that is delivered, if one is. -/
theorem onlySetCityWritesTheCity : Obligations.OnlySetCityWritesTheCity := by
  intro s t h
  obtain ⟨-, ⟨-, rfl⟩ | ⟨⟨e, env⟩, rest, hi, he⟩⟩ := step_next h
  · exact cityMoves_of_keep rfl rfl fun _ _ _ hroute => nomatch hroute
  · obtain ⟨hmoves, hroute⟩ := cityMoves_event (s := s.deliver ⟨e, env⟩ rest) he
    refine ⟨fun hmoved => (hmoves hmoved).imp_left ?_, hroute⟩
    rintro rfl
    exact ⟨env, rest, hi⟩

/-! The accept counter. -/

theorem toNat_add_one_le (c : CounterWord) : (c + 1).toNat ≤ c.toNat + 1 := by
  rw [BitVec.toNat_add]
  exact Nat.mod_le _ _

/-- R193: a dispatched frame is dropped once at most. -/
theorem dspSum_dispatch_le {f : Frame} {s t : State} (h : dispatch f s = .next t) : dspSum t ≤ dspSum s + 1 := by
  rcases dispatch_next h with ⟨r, -, rfl⟩ | ⟨k, rfl⟩ | ⟨-, -, -, rfl⟩ | ⟨r, cmd, p, -, hs⟩
  · exact Nat.le_succ (dspSum s)
  · have hle := toNat_add_one_le (s.cnt.get k.counter)
    cases k <;>
      simp only [dspSum, drop, routeTo, State.bump, Counters.bump, Counters.get, DropCause.counter] at hle ⊢ <;>
      omega
  · exact Nat.le_succ (dspSum s)
  · rcases submitReply_next hs with ⟨-, rfl⟩ | ⟨-, -, rfl⟩ <;> exact Nat.le_succ (dspSum s)

/-- R206 of one event: an acceptance counts one and drops one at most, and nothing else counts either. -/
def CountsAcceptance (s t : State) : Prop :=
  (Accepts t.out ∧ t.cnt.rxAccept = s.cnt.rxAccept + 1 ∧ dspSum t ≤ dspSum s + 1) ∨
    (¬ Accepts t.out ∧ t.cnt.rxAccept = s.cnt.rxAccept ∧ dspSum t = dspSum s)

theorem dspSum_acceptFrame_le {f : Frame} {s t : State} (h : acceptFrame f s = .next t) : dspSum t ≤ dspSum s + 1 :=
  dspSum_dispatch_le (s := ((s.bump .rxAccept).setRxEv (.accepted f)).toIdle) h

theorem dspSum_of_same {s t : State} (h : SameDspCounters s t) : dspSum t = dspSum s := by
  obtain ⟨h1, h2, h3⟩ := h
  rw [dspSum, h1, h2, h3, dspSum]

theorem not_accepts_of_none {o : Out} (h : o.rxEv = none) : ¬ Accepts o := by simp [Accepts, h]

theorem countsAcceptance_rxByte {b : Byte} {s t : State} (h : execRxByte b s = .next t) : CountsAcceptance s t := by
  rcases execRxByte_shape h with ⟨-, -, rfl⟩ | ⟨-, -, rfl⟩ | ⟨-, -, exp, valid, -, rfl | rfl | rfl | ⟨f, -, -, ha⟩⟩
  · exact .inr ⟨by simp [Accepts, startedFrame], rfl, rfl⟩
  · exact .inr ⟨by simp [Accepts, strayByte], rfl, rfl⟩
  · exact .inr ⟨by simp [Accepts, discardFrame], rfl, rfl⟩
  · exact .inr ⟨by simp [Accepts], rfl, rfl⟩
  · exact .inr ⟨by simp [Accepts, discardFrame], rfl, rfl⟩
  · obtain ⟨-, -, ⟨hcnt, -⟩, -, ⟨hrx, -⟩, -⟩ := acceptFrame_keeps ha
    exact .inl ⟨⟨f, hrx⟩, hcnt, dspSum_acceptFrame_le (s := latched b exp valid s) ha⟩

theorem countsAcceptance_rxTick {s t : State} (h : execRxTick s = .next t) : CountsAcceptance s t := by
  rcases execRxTick_next h with ⟨-, rfl⟩ | ⟨-, -, rfl⟩ | ⟨-, -, rfl⟩
  · exact .inr ⟨not_accepts_of_none rfl, rfl, rfl⟩
  · exact .inr ⟨by simp [Accepts, discardFrame], rfl, rfl⟩
  · exact .inr ⟨not_accepts_of_none rfl, rfl, rfl⟩

theorem countsAcceptance_event {e : Event} {s t : State} (he : e ≠ .reset) (h : exec e.instr s = .next t) :
    CountsAcceptance s t := by
  have transmit : IsTransmit e.instr → CountsAcceptance s t := fun hi => by
    obtain ⟨-, -, -, ⟨haccept, -⟩, hdsp, hrx, -⟩ := transmitEventsLeaveTheReceiver _ s t hi h
    exact .inr ⟨not_accepts_of_none hrx, haccept, dspSum_of_same hdsp⟩
  cases e with
  | rxByte b => exact countsAcceptance_rxByte h
  | rxTick => exact countsAcceptance_rxTick h
  | txReq cmd p => exact transmit (.inl ⟨cmd, p, rfl⟩)
  | txPop => exact transmit (.inr (.inl rfl))
  | txAbort => exact transmit (.inr (.inr rfl))
  | reset => exact absurd rfl he
  | forceRefreshClr =>
    obtain rfl := Host.Outcome.next.inj h
    exact .inr ⟨not_accepts_of_none rfl, rfl, rfl⟩

theorem dspSum_le_of_counts {s t : State} (h : CountsAcceptance s t) (hle : dspSum s ≤ s.cnt.rxAccept.toNat)
    (hwrap : s.cnt.rxAccept.toNat + 1 < 2 ^ 32) : dspSum t ≤ t.cnt.rxAccept.toNat := by
  rcases h with ⟨-, haccept, hdsp⟩ | ⟨-, haccept, hdsp⟩
  · rw [haccept, BitVec.toNat_add_of_lt (by simpa using hwrap)]
    exact hdsp.trans (Nat.succ_le_succ hle)
  · rwa [haccept, hdsp]

/-- Settles O53: `RESET` clears the counters, and of the other events only an acceptance counts either. -/
theorem countersCountTheReports : Obligations.CountersCountTheReports := by
  intro s t i rest hi h
  obtain ⟨hw, -⟩ := step_next h
  have he : exec i.event.instr (s.deliver i rest) = .next t := (step_of_input hw hi).symm.trans h
  refine ⟨fun hne => ?_, fun hle hwrap => ?_⟩
  · rcases countsAcceptance_event hne he with ⟨hacc, hcnt, -⟩ | ⟨hno, hcnt, -⟩
    · exact ⟨fun _ => hcnt, fun hno => absurd hacc hno⟩
    · exact ⟨fun hacc => absurd hacc hno, fun _ => hcnt⟩
  · by_cases hr : i.event = .reset
    · rw [hr] at he
      obtain rfl := Host.Outcome.next.inj he
      exact Nat.le_refl 0
    · exact dspSum_le_of_counts (countsAcceptance_event hr he) hle hwrap

end Sys2Proof.Machine
end

section
/-! Two events of one cycle (R197): the second step starts where the first one ended. -/

namespace Sys2Proof.Machine

open Sys2Proof.Spec

theorem trace_succ_next {n : Nat} {s u : State} {os : List Out} (h : trace (n + 1) s = .next (os, u)) :
    ∃ t os', step s = .next t ∧ trace n t = .next (os', u) ∧ os = t.out :: os' := by
  unfold trace at h
  split at h
  · cases h
  · cases h
  · next t hst =>
    split at h
    · cases h
    · cases h
    · next os' u' ht =>
      obtain ⟨rfl, rfl⟩ := Prod.mk.inj (Host.Outcome.next.inj h)
      exact ⟨t, os', hst, ht, rfl⟩

/-- The steps of two events of one cycle, in their order. -/
theorem exec_of_trace_two {d e : Event} {env : Env} {s u : State} {os : List Out}
    (hi : s.inputs = [⟨d, env⟩, ⟨e, env⟩]) (h : trace 2 s = .next (os, u)) :
    ∃ t, exec d.instr (s.deliver ⟨d, env⟩ [⟨e, env⟩]) = .next t ∧ exec e.instr (t.deliver ⟨e, env⟩ []) = .next u ∧
      os = [t.out, u.out] := by
  obtain ⟨t, os', hst, ht, rfl⟩ := trace_succ_next h
  obtain ⟨u', os'', htu, hu, rfl⟩ := trace_succ_next ht
  obtain ⟨rfl, rfl⟩ := Prod.mk.inj (Host.Outcome.next.inj hu)
  have hrest : t.inputs = [⟨e, env⟩] := (configurationIsConstant s t hst).2.trans (by rw [hi]; rfl)
  exact ⟨t, (step_of_input (step_next hst).1 hi).symm.trans hst,
    (step_of_input (step_next htu).1 hrest).symm.trans htu, rfl⟩

theorem trace_two_of_exec {d e : Event} {env : Env} {s t u : State} (hw : s.cfg.wf = true)
    (hi : s.inputs = [⟨d, env⟩, ⟨e, env⟩]) (ht : exec d.instr (s.deliver ⟨d, env⟩ [⟨e, env⟩]) = .next t)
    (hu : exec e.instr (t.deliver ⟨e, env⟩ []) = .next u) : trace 2 s = .next ([t.out, u.out], u) := by
  have hst : step s = .next t := (step_of_input hw hi).trans ht
  obtain ⟨hcfg, hrest⟩ := configurationIsConstant s t hst
  have htu : step t = .next u :=
    (step_of_input (hcfg.symm ▸ hw) (hrest.trans (by rw [hi]; rfl))).trans hu
  exact trace_of_next hst (trace_of_next htu rfl)

theorem addCycle_inputs {c : CycleEvents} {env : Env} {s : State} {es : List Event} (hi : s.inputs = [])
    (hc : c.ordered = es) : (s.addCycle c env).inputs = es.map fun e => ⟨e, env⟩ := by
  subst hc
  show s.inputs ++ _ = _
  rw [hi, List.nil_append]

/-- R103: a stored byte clears the stall counter inside a frame. -/
theorem stall_of_stored {b : Byte} {s t : State} (h : execRxByte b s = .next t) (hev : t.out.rxEv = some .stored) :
    t.rxFsm = .accumulating ∧ t.rxStall = 0 := by
  rcases execRxByte_shape h with ⟨-, -, rfl⟩ | ⟨-, -, rfl⟩ | ⟨hf, -, exp, valid, -, rfl | rfl | rfl | ⟨f, -, -, ha⟩⟩
  on_goal 4 => exact ⟨hf, rfl⟩
  on_goal 5 =>
    obtain ⟨-, -, -, -, ⟨hrx, -⟩, -⟩ := acceptFrame_keeps ha
    cases hrx.symm.trans hev
  all_goals cases hev

/-- R114: a tick inside a frame that does not time out counts one. -/
theorem rxStall_of_quietTick {s t : State} (hf : s.rxFsm = .accumulating) (h : execRxTick s = .next t)
    (hev : t.out.rxEv = none) : t.rxStall = s.rxStall + 1 := by
  rcases execRxTick_next h with ⟨hidle, -⟩ | ⟨-, -, rfl⟩ | ⟨-, -, rfl⟩
  · exact absurd (hidle.symm.trans hf) (by decide)
  · cases hev
  · rfl

/-- R140, R153: an idle serializer takes the reply it is offered. -/
theorem txBusy_of_reply_dispatch {f : Frame} {s t : State} {rep : ReplyOut} (hb : s.txBusy = false)
    (h : dispatch f s = .next t) (hr : t.out.reply = some rep) : t.txBusy = true := by
  rcases dispatch_next h with ⟨r, -, rfl⟩ | ⟨k, rfl⟩ | ⟨-, -, -, rfl⟩ | ⟨r, cmd, p, -, hs⟩
  · cases hr
  · cases hr
  · cases hr
  · rcases submitReply_next hs with ⟨hbusy, -⟩ | ⟨-, -, rfl⟩
    · exact absurd (hb.symm.trans hbusy) (by decide)
    · rfl

theorem txBusy_of_reply {b : Byte} {s t : State} {rep : ReplyOut} (hb : s.txBusy = false)
    (h : execRxByte b s = .next t) (hr : t.out.reply = some rep) : t.txBusy = true := by
  rcases execRxByte_shape h with ⟨-, -, rfl⟩ | ⟨-, -, rfl⟩ | ⟨-, -, exp, valid, -, rfl | rfl | rfl | ⟨f, -, -, ha⟩⟩
  on_goal 6 =>
    exact txBusy_of_reply_dispatch
      (s := (((latched b exp valid s).bump .rxAccept).setRxEv (.accepted f)).toIdle) hb ha hr
  all_goals cases hr

theorem rxStall_of_byteAndTick {s u : State} {b : Byte} {env : Env} {os : List Out}
    (hi : s.inputs = [⟨.rxByte b, env⟩, ⟨.rxTick, env⟩]) (h : trace 2 s = .next (os, u))
    (hev : os.map Out.rxEv = [some .stored, none]) : u.rxStall = 1 := by
  obtain ⟨t, ht, hu, rfl⟩ := exec_of_trace_two hi h
  obtain ⟨hstored, hquiet⟩ : t.out.rxEv = some .stored ∧ u.out.rxEv = none := by simpa using hev
  obtain ⟨hf, h0⟩ := stall_of_stored ht hstored
  have hcount : u.rxStall = t.rxStall + 1 := rxStall_of_quietTick (s := t.deliver ⟨.rxTick, env⟩ []) hf hu hquiet
  rw [hcount, h0]

theorem refused_of_replyAndReq {s u : State} {b cmd : Byte} {p : List Byte} {env : Env} {os : List Out}
    {rep : ReplyOut} (hi : s.inputs = [⟨.rxByte b, env⟩, ⟨.txReq cmd p, env⟩]) (hb : s.txBusy = false)
    (hp : p.length ≤ 128) (h : trace 2 s = .next (os, u)) (hr : (os.head?.bind Out.reply) = some rep) :
    os.map Out.txEv = [none, some (.refused .txBusy)] := by
  obtain ⟨t, ht, hu, rfl⟩ := exec_of_trace_two hi h
  obtain ⟨-, -, -, -, -, hquiet⟩ := byteKeeps_rxByte ht
  have hbusy : t.txBusy = true :=
    txBusy_of_reply (s := s.deliver ⟨.rxByte b, env⟩ [⟨.txReq cmd p, env⟩]) hb ht hr
  obtain rfl :=
    Host.Outcome.next.inj ((execTxReq_busy (cmd := cmd) (s := t.deliver ⟨.txReq cmd p, env⟩ []) hp hbusy).symm.trans hu)
  exact congrArg (fun x => [x, some (TxEv.refused .txBusy)]) hquiet

theorem taken_of_lastPopAndReq {s : State} {cmd : Byte} {p : List Byte} {env : Env} (hw : s.cfg.wf = true)
    (hi : s.inputs = [⟨.txPop, env⟩, ⟨.txReq cmd p, env⟩]) (hb : s.txBusy = true) (hn : s.txIdx + 1 = s.txN)
    (hlt : s.txIdx < 132) (hp : p.length ≤ 128) :
    ∃ os t, trace 2 s = .next (os, t) ∧
      os.map Out.txEv = [some (.byte (s.txBuf.read s.txIdx) true), some .taken] :=
  ⟨_, _, trace_two_of_exec hw hi (execTxPop_lastByte hb hn hlt) (execTxReq_idle hp rfl), rfl⟩

/-- Settles O55: per pair of events, what the first one leaves is what the second one meets. -/
theorem sameCycleConsequences : Obligations.SameCycleConsequences := by
  refine ⟨?_, ?_, ?_⟩
  · rintro s u _ b env os hi rfl h hev
    exact rxStall_of_byteAndTick (addCycle_inputs (es := [.rxByte b, .rxTick]) hi rfl) h hev
  · rintro s u _ b ⟨cmd, p⟩ env os rep hi rfl hb hp h hr
    exact refused_of_replyAndReq (addCycle_inputs (es := [.rxByte b, .txReq cmd p]) hi rfl) hb hp h hr
  · rintro s _ ⟨cmd, p⟩ env hw hi rfl hb hn hlt hp
    exact taken_of_lastPopAndReq (s := s.addCycle _ env) hw (addCycle_inputs (es := [.txPop, .txReq cmd p]) hi rfl)
      hb hn hlt hp

end Sys2Proof.Machine
end
